-- ==== Sys2Proof/Word.lean ====
section
/-! DEFINITION. The word types of BLSC-CORE (spec/30_encoding.md R100, spec/10_state.md). -/

namespace Sys2Proof

/-- One operation or event word `W[47:0]` (R100). -/
abbrev TraceWord := BitVec 48

/-- A value of the 32-bit registers and of the result port (R31). -/
abbrev Word := BitVec 32

/-- One raw sample of the converter, 0 to 1023 (R5 `ADC_BITS`, R37). -/
abbrev Sample := BitVec 10

/-- The two analog channels (R5 `N_CH`): channel 0 is the current channel, channel 1 the voltage
channel (R38, D14). -/
inductive Channel where
  | ch0
  | ch1
  deriving DecidableEq, Repr

end Sys2Proof
end

