-- ==== Sys2Proof/Syntax.lean ====
section
/-! DEFINITION. The instructions: one constructor per row of spec/opcode_table.json, the 33
operations of spec/30_encoding.md R103 and the 12 event words of R104. -/

namespace Sys2Proof

/-- One operation (R103) or one event step (R104), with its operands as R102 assembles them. -/
inductive Instr where
  /-- `TB.START` (R132). -/
  | tbStart
  /-- `TB.STOP` (R133). -/
  | tbStop
  /-- `TB.NOW` (R135). -/
  | tbNow
  /-- `TB.TICKNUM` (R136). -/
  | tbTicknum
  /-- `TB.MSWAIT d`, milliseconds (R137). -/
  | tbMswait (d : BitVec 32)
  /-- `TB.TICKWAIT` (R138). -/
  | tbTickwait
  /-- `TB.RAWSTART d`, milliseconds (R139). -/
  | tbRawstart (d : BitVec 32)
  /-- `TB.RAWENDED` (R140). -/
  | tbRawended
  /-- `TB.RAWWAIT d`, milliseconds (R141). -/
  | tbRawwait (d : BitVec 32)
  /-- `ADC.START` (R162). -/
  | adcStart
  /-- `ADC.STOP` (R163). -/
  | adcStop
  /-- `ADC.ISUPDATED rounds` (R166). -/
  | adcIsupdated (rounds : BitVec 8)
  /-- `ADC.CALBIAS ch` (R167). -/
  | adcCalbias (ch : Channel)
  /-- `ADC.READING ch` (R168). -/
  | adcReading (ch : Channel)
  /-- `ADC.ACCCHARGE` (R169). -/
  | adcAcccharge
  /-- `OC.TRIPPED` (R192). -/
  | ocTripped
  /-- `OC.PENDING` (R193). -/
  | ocPending
  /-- `OC.CLEAR` (R194). -/
  | ocClear
  /-- `OC.ARM` (R195). -/
  | ocArm
  /-- `LP.TRIPPED` (R196). -/
  | lpTripped
  /-- `LP.PENDING` (R197). -/
  | lpPending
  /-- `LP.CLEAR` (R198). -/
  | lpClear
  /-- `LP.ARM` (R199). -/
  | lpArm
  /-- `PWR.ON` (R210). -/
  | pwrOn
  /-- `PWR.OFF` (R211). -/
  | pwrOff
  /-- `LRST.ASSERT` (R212). -/
  | lrstAssert
  /-- `LRST.RELEASE` (R213). -/
  | lrstRelease
  /-- `SYS.IRQEN` (R214). -/
  | sysIrqen
  /-- `SYS.IRQDIS` (R215). -/
  | sysIrqdis
  /-- `SYS.SLEEP` (R216). -/
  | sysSleep
  /-- `SYS.HALT` (R217). -/
  | sysHalt
  /-- `WDT.KICK` (R218). -/
  | wdtKick
  /-- `LAMP.POLL` (R222). -/
  | lampPoll
  /-- `EV.COUNT n`: the counter counts `n` times (R130). -/
  | evCount (n : BitVec 32)
  /-- `EV.ADCDONE s`: a conversion completes with sample `s` (R160). -/
  | evAdcdone (sample : Sample)
  /-- `EV.OC l`: the over-current input takes level `l` (R190). -/
  | evOc (level : Bool)
  /-- `EV.LP l`: the low-power input takes level `l` (R191). -/
  | evLp (level : Bool)
  /-- `EV.LAMP l`: the lamp driver's next answer becomes `l` (R223). -/
  | evLamp (level : Bool)
  /-- `EV.WDTEXP hold oc lp cnt`: the watchdog resets the device (R300). -/
  | evWdtexp (hold oc lp : Bool) (cnt : BitVec 16)
  /-- `EV.POR hold oc lp cnt`: power-on reset (R300). -/
  | evPor (hold oc lp : Bool) (cnt : BitVec 16)
  /-- `IRQ.OC`: the over-current interrupt is taken (R268). -/
  | irqOc
  /-- `IRQ.LP`: the low-power interrupt is taken (R269). -/
  | irqLp
  /-- `IRQ.ADC`: the conversion-complete interrupt is taken (R161). -/
  | irqAdc
  /-- `IRQ.TOV`: the timer-overflow interrupt is taken (R131). -/
  | irqTov
  /-- `FG.STEP n`: the foreground takes `n` steps of its own (R221). -/
  | fgStep (n : BitVec 32)
  deriving DecidableEq, Repr

end Sys2Proof
end

