-- ==== Sys2Proof/Decode.lean ====
section
/-! DEFINITION. The decoder, total on 48-bit words (spec/30_encoding.md R100 to R104, R107, R109), and
the encoder written from the same formats. -/

namespace Sys2Proof

/-- Why a word is illegal (R107). -/
inductive Illegal where
  /-- The opcode stands neither in R103 nor in R104. -/
  | reservedOpcode (op : BitVec 8)
  /-- A field bit that the format says must be 0 is 1. -/
  | operandBits (op : BitVec 8)
  /-- Not the six bytes of one word (R82, R100). -/
  | wrongLength
  deriving DecidableEq, Repr

/-! Fields and operand assembly (R100, R102). -/

/-- `op = W[47:40]`. -/
def fieldOp (w : TraceWord) : BitVec 8 := w.extractLsb' 40 8

/-- `a = W[39:32]`, the small operand `ARG_A`. -/
def fieldA (w : TraceWord) : BitVec 8 := w.extractLsb' 32 8

/-- `d = W[31:0]`, the large operand `ARG_D`. -/
def fieldD (w : TraceWord) : BitVec 32 := w.extractLsb' 0 32

/-- The word with the three fields (R100). -/
def packWord (op a : BitVec 8) (d : BitVec 32) : TraceWord :=
  op.setWidth 48 <<< 40 ||| a.setWidth 48 <<< 32 ||| d.setWidth 48

/-- `channel = a[0]` (R102). -/
def channelOfBit (b : Bool) : Channel := if b then .ch1 else .ch0

/-- The bit that selects a channel (R102). -/
def Channel.bit : Channel → Bool
  | .ch0 => false
  | .ch1 => true

/-- A one-bit operand in `a[0]`. -/
def bitInA (b : Bool) : BitVec 8 := (BitVec.ofBool b).setWidth 8

/-- The three strap and level bits of format X: `a[0]`, `a[1]`, `a[2]` (R101). -/
def resetBitsInA (hold oc lp : Bool) : BitVec 8 :=
  (BitVec.ofBool lp ++ BitVec.ofBool oc ++ BitVec.ofBool hold : BitVec (1 + 1 + 1)).setWidth 8

/-! The seven formats (R101): the instruction, unless a must-be-zero bit is 1. -/

/-- Format N: no operand. -/
def formatN (op a : BitVec 8) (d : BitVec 32) (i : Instr) : Except Illegal Instr :=
  if a = 0 ∧ d = 0 then .ok i else .error (.operandBits op)

/-- Format C: `a[0]` is the channel. -/
def formatC (op a : BitVec 8) (d : BitVec 32) (i : Channel → Instr) : Except Illegal Instr :=
  if a.extractLsb' 1 7 = 0 ∧ d = 0 then .ok (i (channelOfBit (a.getLsbD 0)))
  else .error (.operandBits op)

/-- Format R: `a` is the round count. -/
def formatR (op a : BitVec 8) (d : BitVec 32) (i : BitVec 8 → Instr) : Except Illegal Instr :=
  if d = 0 then .ok (i a) else .error (.operandBits op)

/-- Format D: `d` is a duration or a repeat count. -/
def formatD (op a : BitVec 8) (d : BitVec 32) (i : BitVec 32 → Instr) : Except Illegal Instr :=
  if a = 0 then .ok (i d) else .error (.operandBits op)

/-- Format L: `a[0]` is the level. -/
def formatL (op a : BitVec 8) (d : BitVec 32) (i : Bool → Instr) : Except Illegal Instr :=
  if a.extractLsb' 1 7 = 0 ∧ d = 0 then .ok (i (a.getLsbD 0)) else .error (.operandBits op)

/-- Format S: `d[9:0]` is the sample. -/
def formatS (op a : BitVec 8) (d : BitVec 32) (i : Sample → Instr) : Except Illegal Instr :=
  if a = 0 ∧ d.extractLsb' 10 22 = 0 then .ok (i (d.extractLsb' 0 10))
  else .error (.operandBits op)

/-- Format X: `a[0]` the strap, `a[1]` and `a[2]` the levels, `d[15:0]` the counter. -/
def formatX (op a : BitVec 8) (d : BitVec 32) (i : Bool → Bool → Bool → BitVec 16 → Instr) :
    Except Illegal Instr :=
  if a.extractLsb' 3 5 = 0 ∧ d.extractLsb' 16 16 = 0 then
    .ok (i (a.getLsbD 0) (a.getLsbD 1) (a.getLsbD 2) (d.extractLsb' 0 16))
  else .error (.operandBits op)

/-- The opcode maps of R103 and R104. -/
def decodeFields (op a : BitVec 8) (d : BitVec 32) : Except Illegal Instr :=
  match op.toNat with
  | 0x00 => formatN op a d .tbStart
  | 0x01 => formatN op a d .tbStop
  | 0x02 => formatN op a d .tbNow
  | 0x03 => formatN op a d .tbTicknum
  | 0x04 => formatD op a d .tbMswait
  | 0x05 => formatN op a d .tbTickwait
  | 0x06 => formatD op a d .tbRawstart
  | 0x07 => formatN op a d .tbRawended
  | 0x08 => formatD op a d .tbRawwait
  | 0x10 => formatN op a d .adcStart
  | 0x11 => formatN op a d .adcStop
  | 0x12 => formatR op a d .adcIsupdated
  | 0x13 => formatC op a d .adcCalbias
  | 0x14 => formatC op a d .adcReading
  | 0x15 => formatN op a d .adcAcccharge
  | 0x20 => formatN op a d .ocTripped
  | 0x21 => formatN op a d .ocPending
  | 0x22 => formatN op a d .ocClear
  | 0x23 => formatN op a d .ocArm
  | 0x30 => formatN op a d .lpTripped
  | 0x31 => formatN op a d .lpPending
  | 0x32 => formatN op a d .lpClear
  | 0x33 => formatN op a d .lpArm
  | 0x40 => formatN op a d .pwrOn
  | 0x41 => formatN op a d .pwrOff
  | 0x42 => formatN op a d .lrstAssert
  | 0x43 => formatN op a d .lrstRelease
  | 0x44 => formatN op a d .sysIrqen
  | 0x45 => formatN op a d .sysIrqdis
  | 0x46 => formatN op a d .sysSleep
  | 0x47 => formatN op a d .sysHalt
  | 0x48 => formatN op a d .wdtKick
  | 0x49 => formatN op a d .lampPoll
  | 0xE0 => formatD op a d .evCount
  | 0xE1 => formatS op a d .evAdcdone
  | 0xE2 => formatL op a d .evOc
  | 0xE3 => formatL op a d .evLp
  | 0xE4 => formatL op a d .evLamp
  | 0xE5 => formatX op a d .evWdtexp
  | 0xE6 => formatX op a d .evPor
  | 0xE8 => formatN op a d .irqOc
  | 0xE9 => formatN op a d .irqLp
  | 0xEA => formatN op a d .irqAdc
  | 0xEB => formatN op a d .irqTov
  | 0xEC => formatD op a d .fgStep
  | _ => .error (.reservedOpcode op)

/-- The decoder: every 48-bit value is a known word or illegal, by name (R107). -/
def decode (w : TraceWord) : Except Illegal Instr := decodeFields (fieldOp w) (fieldA w) (fieldD w)

/-- The word of six bytes laid out little-endian, the layout R82 gives for a host or test bench. -/
def wordOfBytes : List (BitVec 8) → Option TraceWord
  | [b0, b1, b2, b3, b4, b5] =>
    some (packWord b5 b4 (b3.setWidth 32 <<< 24 ||| b2.setWidth 32 <<< 16 ||| b1.setWidth 32 <<< 8 ||| b0.setWidth 32))
  | _ => none

/-- Decoding a string of bytes, total: anything but six bytes is refused by name (R82, log 20). -/
def decodeBytes (bs : List (BitVec 8)) : Except Illegal Instr :=
  match wordOfBytes bs with
  | some w => decode w
  | none => .error .wrongLength

/-- The instruction the decoder reads from the table's word number `w` of `nbits` bits; `none` where
it refuses. Every word of this block has 48 bits (R100). -/
def decodeTableWord (nbits w : Nat) : Option Instr :=
  let bits := w % 2 ^ nbits
  if bits < 2 ^ 48 then
    match decode (BitVec.ofNat 48 bits) with
    | .ok i => some i
    | .error _ => none
  else none

/-- The encoder, from the opcode maps of R103 and R104 and the formats of R101. -/
def encode : Instr → TraceWord
  | .tbStart => packWord 0x00 0 0
  | .tbStop => packWord 0x01 0 0
  | .tbNow => packWord 0x02 0 0
  | .tbTicknum => packWord 0x03 0 0
  | .tbMswait d => packWord 0x04 0 d
  | .tbTickwait => packWord 0x05 0 0
  | .tbRawstart d => packWord 0x06 0 d
  | .tbRawended => packWord 0x07 0 0
  | .tbRawwait d => packWord 0x08 0 d
  | .adcStart => packWord 0x10 0 0
  | .adcStop => packWord 0x11 0 0
  | .adcIsupdated rounds => packWord 0x12 rounds 0
  | .adcCalbias ch => packWord 0x13 (bitInA ch.bit) 0
  | .adcReading ch => packWord 0x14 (bitInA ch.bit) 0
  | .adcAcccharge => packWord 0x15 0 0
  | .ocTripped => packWord 0x20 0 0
  | .ocPending => packWord 0x21 0 0
  | .ocClear => packWord 0x22 0 0
  | .ocArm => packWord 0x23 0 0
  | .lpTripped => packWord 0x30 0 0
  | .lpPending => packWord 0x31 0 0
  | .lpClear => packWord 0x32 0 0
  | .lpArm => packWord 0x33 0 0
  | .pwrOn => packWord 0x40 0 0
  | .pwrOff => packWord 0x41 0 0
  | .lrstAssert => packWord 0x42 0 0
  | .lrstRelease => packWord 0x43 0 0
  | .sysIrqen => packWord 0x44 0 0
  | .sysIrqdis => packWord 0x45 0 0
  | .sysSleep => packWord 0x46 0 0
  | .sysHalt => packWord 0x47 0 0
  | .wdtKick => packWord 0x48 0 0
  | .lampPoll => packWord 0x49 0 0
  | .evCount n => packWord 0xE0 0 n
  | .evAdcdone sample => packWord 0xE1 0 (sample.setWidth 32)
  | .evOc level => packWord 0xE2 (bitInA level) 0
  | .evLp level => packWord 0xE3 (bitInA level) 0
  | .evLamp level => packWord 0xE4 (bitInA level) 0
  | .evWdtexp hold oc lp cnt => packWord 0xE5 (resetBitsInA hold oc lp) (cnt.setWidth 32)
  | .evPor hold oc lp cnt => packWord 0xE6 (resetBitsInA hold oc lp) (cnt.setWidth 32)
  | .irqOc => packWord 0xE8 0 0
  | .irqLp => packWord 0xE9 0 0
  | .irqAdc => packWord 0xEA 0 0
  | .irqTov => packWord 0xEB 0 0
  | .fgStep n => packWord 0xEC 0 n

/-! Match and mask (R109): a word is a row's instruction when its masked bits are the row's match. -/

/-- The `match` of the row of an instruction (R109). -/
def matchOf : Instr → TraceWord
  | .tbStart => 0x000000000000
  | .tbStop => 0x010000000000
  | .tbNow => 0x020000000000
  | .tbTicknum => 0x030000000000
  | .tbMswait _ => 0x040000000000
  | .tbTickwait => 0x050000000000
  | .tbRawstart _ => 0x060000000000
  | .tbRawended => 0x070000000000
  | .tbRawwait _ => 0x080000000000
  | .adcStart => 0x100000000000
  | .adcStop => 0x110000000000
  | .adcIsupdated _ => 0x120000000000
  | .adcCalbias _ => 0x130000000000
  | .adcReading _ => 0x140000000000
  | .adcAcccharge => 0x150000000000
  | .ocTripped => 0x200000000000
  | .ocPending => 0x210000000000
  | .ocClear => 0x220000000000
  | .ocArm => 0x230000000000
  | .lpTripped => 0x300000000000
  | .lpPending => 0x310000000000
  | .lpClear => 0x320000000000
  | .lpArm => 0x330000000000
  | .pwrOn => 0x400000000000
  | .pwrOff => 0x410000000000
  | .lrstAssert => 0x420000000000
  | .lrstRelease => 0x430000000000
  | .sysIrqen => 0x440000000000
  | .sysIrqdis => 0x450000000000
  | .sysSleep => 0x460000000000
  | .sysHalt => 0x470000000000
  | .wdtKick => 0x480000000000
  | .lampPoll => 0x490000000000
  | .evCount _ => 0xE00000000000
  | .evAdcdone _ => 0xE10000000000
  | .evOc _ => 0xE20000000000
  | .evLp _ => 0xE30000000000
  | .evLamp _ => 0xE40000000000
  | .evWdtexp _ _ _ _ => 0xE50000000000
  | .evPor _ _ _ _ => 0xE60000000000
  | .irqOc => 0xE80000000000
  | .irqLp => 0xE90000000000
  | .irqAdc => 0xEA0000000000
  | .irqTov => 0xEB0000000000
  | .fgStep _ => 0xEC0000000000

/-- The `mask` of the row of an instruction, one per format (R109). -/
def maskOf : Instr → TraceWord
  | .tbStart | .tbStop | .tbNow | .tbTicknum | .tbTickwait | .tbRawended => 0xFFFFFFFFFFFF
  | .adcStart | .adcStop | .adcAcccharge | .ocTripped | .ocPending | .ocClear => 0xFFFFFFFFFFFF
  | .ocArm | .lpTripped | .lpPending | .lpClear | .lpArm | .pwrOn => 0xFFFFFFFFFFFF
  | .pwrOff | .lrstAssert | .lrstRelease | .sysIrqen | .sysIrqdis | .sysSleep => 0xFFFFFFFFFFFF
  | .sysHalt | .wdtKick | .lampPoll | .irqOc | .irqLp | .irqAdc => 0xFFFFFFFFFFFF
  | .irqTov => 0xFFFFFFFFFFFF
  | .tbMswait _ | .tbRawstart _ | .tbRawwait _ | .evCount _ | .fgStep _ => 0xFFFF00000000
  | .adcIsupdated _ => 0xFF00FFFFFFFF
  | .adcCalbias _ | .adcReading _ | .evOc _ | .evLp _ | .evLamp _ => 0xFFFEFFFFFFFF
  | .evAdcdone _ => 0xFFFFFFFFFC00
  | .evWdtexp _ _ _ _ | .evPor _ _ _ _ => 0xFFF8FFFF0000

end Sys2Proof
end

