-- ==== Sys2Proof/Config.lean ====
section
/-! DEFINITION. The configuration: the parameters the source leaves open or names without a value
(spec/00_scope.md R6), and the treatments the rules leave to the model (R161, R261). The machine
carries a configuration in its state and no step writes it (log 1). -/

namespace Sys2Proof

/-- How a case is treated for which the rules give both a stop ("a model should ...") and the
hardware's behaviour ("or, adopting D8 ..."): 60_exceptions R261, 41_adc R161, 30_encoding R107. -/
inductive Treatment where
  /-- The stop the rule asks a model for: a fault for MF1 to MF3, a refusal for an illegal word. -/
  | stop
  /-- The behaviour the rule decides for the hardware; the machine goes on. -/
  | hardware
  deriving DecidableEq, Repr

/-- The parameters of R6 (`SUM_W` and `IRQ_ORDER` are decided and are constants of
`Machine/Params.lean`) and the treatments of R261 and R107. -/
structure Config where
  /-- `ACC_W`, width of a channel's accumulator. -/
  accW : Nat
  /-- `SRC_W`, width of the sample-ready counter. -/
  srcW : Nat
  /-- `OVF_W`, width of the overflow counter. -/
  ovfW : Nat
  /-- `TB_MS_MUL`, multiplier of the count-to-millisecond scaling. -/
  tbMsMul : Nat
  /-- `TB_MS_SHIFT`, right shift of that scaling. -/
  tbMsShift : Nat
  /-- `TB_CORR_BOUND`, the counter value below which a pending overflow is counted by `TB.NOW`. -/
  tbCorrBound : Nat
  /-- `ILK_PRECAL_SETTLE_MS`, the settle wait before the converter is touched. -/
  ilkPrecalSettleMs : BitVec 32
  /-- `ILK_CAL_ROUNDS`, the rounds waited for before the bias is calibrated. -/
  ilkCalRounds : BitVec 8
  /-- `ILK_Q_CEIL`, the accumulated-charge shutdown ceiling. -/
  ilkQCeil : Nat
  /-- `ILK_I_CEIL`, the instantaneous-current cutoff; above 1023 means never (R7). -/
  ilkICeil : Nat
  /-- `ILK_V_FLOOR`, the instantaneous-voltage floor; above 1023 means always (R7). -/
  ilkVFloor : Nat
  /-- MF1, a conversion completes while the previous one is unserviced (R160, R261). -/
  onOverrun : Treatment
  /-- MF2, the sample-ready counter is incremented at its maximum (R161, R261). -/
  onSrcTop : Treatment
  /-- MF3, the accumulator reaches its maximum (R161, R261). -/
  onAccTop : Treatment
  /-- An illegal word on the operation port (R107, R261). -/
  onIllegal : Treatment
  deriving DecidableEq, Repr

end Sys2Proof
end

