-- ==== Sys2Proof/Machine/Params.lean ====
section
/-! DEFINITION. The parameters the source fixes (spec/00_scope.md R5), the ones the spec decides,
the derived quantities and the conditions a configuration must meet (R7), and the reference
configuration REF (R14). -/

namespace Sys2Proof

/-- `AVG_SHIFT`, log2 of the window depth 16 (R5). -/
def avgShift : Nat := 4

/-- `ACC_SHIFT`, the precision reduction of the accumulator path (R5). -/
def accShift : Nat := 3

/-- `SUM_W`, the width of a running sum and of a bias: decided 16 (R6, D7). -/
def sumW : Nat := 16

/-- `ILK_POWER_SETTLE_MS`, the settle window after power is applied (R5). -/
def ilkPowerSettleMs : BitVec 32 := 256

/-- `ILK_CADENCE_STEADY`, rounds between measurements in steady state (R5). -/
def ilkCadenceSteady : BitVec 6 := 32

/-- `ILK_CADENCE_REACTIVE`, rounds between measurements after a lamp-state change (R5). -/
def ilkCadenceReactive : BitVec 6 := 1

/-- The count-to-millisecond scaling of R134: exact product, then floor shift. -/
def Config.scaled (c : Config) (n : Nat) : Nat := n * c.tbMsMul / 2 ^ c.tbMsShift

/-- `TB_MS_WRAP` (R7, R134): the number of distinct values of the millisecond clock. -/
def Config.msWrap (c : Config) : Nat := c.scaled (2 ^ (c.ovfW + 16) - 1) + 1

/-- The conditions of R7. -/
abbrev Config.Conditions (c : Config) : Prop :=
  (1 ≤ c.ovfW ∧ c.ovfW ≤ 32) ∧
  1 ≤ c.tbMsMul ∧
  (2 ≤ c.msWrap ∧ c.msWrap ≤ 2 ^ 32) ∧
  c.tbCorrBound ≤ 65536 ∧
  14 ≤ sumW ∧
  (12 ≤ c.accW ∧ c.accW ≤ 32) ∧
  (2 ≤ c.srcW ∧ c.srcW ≤ 32) ∧
  (16 ≤ c.ilkCalRounds.toNat ∧ c.ilkCalRounds.toNat ≤ 127) ∧
  2 * c.ilkCalRounds.toNat < 2 ^ c.srcW ∧
  2 * ilkCadenceSteady.toNat < 2 ^ c.srcW ∧
  c.ilkPrecalSettleMs.toNat < c.msWrap ∧
  ilkPowerSettleMs.toNat < c.msWrap ∧
  c.ilkQCeil < 2 ^ c.accW

/-- Whether the conditions of R7 hold. A configuration that fails one of them is refused by
`Machine.step`. -/
def Config.valid (c : Config) : Bool := decide c.Conditions

/-- The reference configuration REF (R14). Its open values are the spec's own, for test vectors;
the treatments are the ones R261 asks of a model. DESIGN CHOICE (log 2, log 10, log 11): unsafe as
the configuration of `State.reset`. -/
def Config.ref : Config where
  accW := 32
  srcW := 8
  ovfW := 16
  tbMsMul := 125
  tbMsShift := 17
  tbCorrBound := 65535
  ilkPrecalSettleMs := 2000
  ilkCalRounds := 16
  ilkQCeil := 100000
  ilkICeil := 800
  ilkVFloor := 300
  onOverrun := .stop
  onSrcTop := .stop
  onAccTop := .stop
  onIllegal := .stop

end Sys2Proof
end

