-- ==== Sys2Proof/Machine/State.lean ====
section
/-! DEFINITION. The state of BLSC-CORE: every register of spec/10_state.md, the strap and the output
ports, the reasons a step can stop, and the state after reset (R54). -/

namespace Sys2Proof.Machine

/-- The Channel Accumulator of one analog channel: the ring buffer (R37) and the per-channel
registers (R38). -/
structure ChannelAcc where
  /-- `ring[c][k]`: the last 16 raw samples (R37), the block's only memory (R80). -/
  ring : Vector Sample 16
  /-- `sum[c]`: the running sum of the ring, `SUM_W` = 16 bits (R38, R40). -/
  sum : BitVec 16
  /-- `cur[c]`: the write cursor into the ring (R38). -/
  cur : BitVec 4
  /-- `bias[c]`: the calibrated zero-signal sum (R38). -/
  bias : BitVec 16
  /-- `acc[c]`: the accumulated value, `ACC_W` bits held in 32 (R38, log 13). -/
  acc : BitVec 32
  deriving DecidableEq, Repr

/-- The state. Fields are named after the registers of spec/10_state.md; one-bit registers are
Booleans (R9). -/
structure State where
  /-- `RES`: the result register (R31). -/
  res : BitVec 32
  /-- `op_err`: an illegal word was presented (R31, R107). -/
  opErr : Bool
  /-- `tb_cnt`: the free-running hardware counter (R32). -/
  tbCnt : BitVec 16
  /-- `tov_flag`: the pending-overflow flag (R32). -/
  tovFlag : Bool
  /-- `tov_ie`: the overflow interrupt is enabled (R32). -/
  tovIe : Bool
  /-- `tb_ovf`: the overflow counter, `OVF_W` bits held in 32 (R33, log 13). -/
  tbOvf : BitVec 32
  /-- `raw_t0`: start of the raw-timer window (R34). -/
  rawT0 : BitVec 32
  /-- `raw_dur`: length of the raw-timer window (R34). -/
  rawDur : BitVec 32
  /-- `w_kind`: the wait in progress (R35). -/
  wKind : BitVec 3
  /-- `w_t0`: where the wait began, milliseconds or a tick number (R35). -/
  wT0 : BitVec 32
  /-- `w_target`: the millisecond value waited for (R35). -/
  wTarget : BitVec 32
  /-- `w_rem`: what remains to wait after the clock wraps (R35). -/
  wRem : BitVec 32
  /-- `adc_en`: the converter runs; also an output (R36, R50). -/
  adcEn : Bool
  /-- `adc_ie`: the conversion-complete interrupt is enabled (R36). -/
  adcIe : Bool
  /-- `adc_flag`: a conversion is complete and not yet serviced (R36). -/
  adcFlag : Bool
  /-- `adc_mux`: the channel selector; also an output (R36, R50). -/
  adcMux : Channel
  /-- `adc_data`: the sample delivered (R36). -/
  adcData : Sample
  /-- Channel 0, the current channel (R37, R38). -/
  chan0 : ChannelAcc
  /-- Channel 1, the voltage channel (R37, R38). -/
  chan1 : ChannelAcc
  /-- `src`: the sample-ready counter, `SRC_W` bits held in 32 (R39, log 13). -/
  src : BitVec 32
  /-- `oc_level`: over-current tripped, the level (R41). -/
  ocLevel : Bool
  /-- `oc_pend`: over-current interrupt pending, the latched edge (R41). -/
  ocPend : Bool
  /-- `oc_ie`: the over-current detector is armed (R41). -/
  ocIe : Bool
  /-- `lp_level`: low-power tripped, the level (R42). -/
  lpLevel : Bool
  /-- `lp_pend`: low-power interrupt pending, the latched edge (R42). -/
  lpPend : Bool
  /-- `lp_ie`: the low-power detector is armed (R42). -/
  lpIe : Bool
  /-- `gie`: the global interrupt enable (R43). -/
  gie : Bool
  /-- `sleeping`: the foreground sleeps; also an output (R44, R50). -/
  sleeping : Bool
  /-- `ilk_halted`: the terminal halt (R44, R272). -/
  ilkHalted : Bool
  /-- `rst_cause_wdt`: the watchdog caused the last reset (R44). -/
  rstCauseWdt : Bool
  /-- `ilk_state`: the state of the interlock (R45). -/
  ilkState : BitVec 3
  /-- `ilk_phase`: the micro-step within the state (R46). -/
  ilkPhase : BitVec 4
  /-- `ilk_cadence`: rounds asked of `ADC.ISUPDATED` in steady state (R47). -/
  ilkCadence : BitVec 6
  /-- `ilk_last_tick`: tick number at the last lamp poll, `OVF_W` bits held in 32 (R47, log 13). -/
  ilkLastTick : BitVec 32
  /-- `ilk_last_change`: time of the last lamp-state change; output `lamp_last_change` (R47, R50). -/
  ilkLastChange : BitVec 32
  /-- `ilk_q`: accumulated charge of this measurement, `ACC_W` bits held in 32 (R47, log 13). -/
  ilkQ : BitVec 32
  /-- `ilk_i`: instantaneous current of this measurement (R47). -/
  ilkI : BitVec 10
  /-- `ilk_v`: instantaneous voltage of this measurement (R47). -/
  ilkV : BitVec 10
  /-- `ilk_fc`: the fatal condition that led to the halt, 0 for none (R47, R260). -/
  ilkFc : BitVec 4
  /-- `lamp_changed`: the lamp driver's next answer (R49). -/
  lampChanged : Bool
  /-- `pwr_en`: main power is applied (R50). -/
  pwrEn : Bool
  /-- `lamp_rst`: the lamp is held in reset (R50). -/
  lampRst : Bool
  /-- `seq_hold`: the strap that gives the operation port to the test master (R49, R300). -/
  seqHold : Bool
  /-- Output port `wdt_kick` in the step just taken; not a register (R10 `pulse`, R50, log 12). -/
  wdtKick : Bool
  /-- Output port `lamp_poll_req` in the step just taken; not a register (R10 `pulse`, R50, log 12). -/
  lampPollReq : Bool
  /-- The configuration (R6); the model's field, which no step writes (R53, log 1). -/
  cfg : Config
  /-- The words still to be executed, next first (R53, R106); the model's field (log 8). -/
  trace : List TraceWord
  deriving DecidableEq, Repr

/-- A Channel Accumulator after reset: every ring entry and register 0 (R37, R38, R54). -/
def ChannelAcc.reset : ChannelAcc where
  ring := Vector.replicate 16 0
  sum := 0
  cur := 0
  bias := 0
  acc := 0

/-- The machine after a power-on reset: the table of R54. The spec leaves `tb_cnt`, `oc_level` and
`lp_level` unspecified and the strap outside the table: DESIGN CHOICE 0 for each (logs 3 to 6), unsafe.
`rst_cause_wdt` is 0, the power-on case (log 7). The configuration is REF (log 2) and no word has been
offered (log 8). -/
def State.reset : State where
  res := 0
  opErr := false
  tbCnt := 0
  tovFlag := false
  tovIe := false
  tbOvf := 0
  rawT0 := 0
  rawDur := 0
  wKind := 0
  wT0 := 0
  wTarget := 0
  wRem := 0
  adcEn := false
  adcIe := false
  adcFlag := false
  adcMux := .ch0
  adcData := 0
  chan0 := ChannelAcc.reset
  chan1 := ChannelAcc.reset
  src := 0
  ocLevel := false
  ocPend := false
  ocIe := false
  lpLevel := false
  lpPend := false
  lpIe := false
  gie := false
  sleeping := false
  ilkHalted := false
  rstCauseWdt := false
  ilkState := 0
  ilkPhase := 0
  ilkCadence := 32
  ilkLastTick := 0
  ilkLastChange := 0
  ilkQ := 0
  ilkI := 0
  ilkV := 0
  ilkFc := 0
  lampChanged := false
  pwrEn := false
  lampRst := true
  seqHold := false
  wdtKick := false
  lampPollReq := false
  cfg := Config.ref
  trace := []

/-- The positions of the micro-step table (43_interlock R232): PD = state 0, CB = 1, AP = 2, CL = 3,
SS = 4, SD = 5, each with its `ilk_phase`. -/
inductive Position where
  | pd0
  | cb0 | cb1 | cb2 | cb3 | cb4 | cb5
  | ap0 | ap1 | ap2 | ap3 | ap4 | ap5 | ap6 | ap7
  | cl0 | cl1
  | ss0 | ss1 | ss2 | ss3 | ss4 | ss5 | ss6 | ss7 | ss8 | ss9 | ss10 | ss11 | ss12
  | sd0 | sd1 | sd2
  deriving DecidableEq, Repr

/-- The waits of R35 that `w_kind` names; `NONE` (0) is no wait. -/
inductive WaitKind where
  /-- `SYNC`, 1: `TB.START` waits for a tick boundary. -/
  | sync
  /-- `MS_NOWRAP`, 2: `TB.MSWAIT` with its target before the wrap of the clock. -/
  | msNowrap
  /-- `MS_WRAPWAIT`, 3: `TB.MSWAIT` waits for the clock to wrap. -/
  | msWrapwait
  /-- `TICK`, 4: `TB.TICKWAIT`. -/
  | tick
  /-- `RAW`, 5: `TB.RAWWAIT`. -/
  | raw
  deriving DecidableEq, Repr

/-- The four interrupt sources (60_exceptions R262). -/
inductive IrqSource where
  | overCurrent
  | lowPower
  | conversion
  | overflow
  deriving DecidableEq, Repr

/-- The fatal conditions FC1 to FC10 (60_exceptions R260), in order. -/
inductive FatalCondition where
  /-- FC1: the watchdog caused the prior reset. -/
  | watchdogCause
  /-- FC2: over-current level before power is applied. -/
  | ocBeforePower
  /-- FC3: over-current level in the settle window. -/
  | ocInSettle
  /-- FC4: low-power level at the one-shot check. -/
  | lowPowerCheck
  /-- FC5: accumulated charge at or above `ILK_Q_CEIL`. -/
  | chargeCeiling
  /-- FC6: instantaneous current at or above `ILK_I_CEIL`. -/
  | currentCeiling
  /-- FC7: instantaneous voltage at or below `ILK_V_FLOOR`. -/
  | voltageFloor
  /-- FC8: over-current interrupt. -/
  | ocInterrupt
  /-- FC9: low-power interrupt. -/
  | lpInterrupt
  /-- FC10: `SYS.HALT` issued with no condition recorded. -/
  | masterHalt
  deriving DecidableEq, Repr

/-- The model-level faults (R13, R261): steps for which the source gives no behaviour. -/
inductive Fault where
  /-- MF1, raised by `EV.ADCDONE` when the previous completion is unserviced and the configuration
  treats an overrun as a stop (R160). Safe: the hardware goes on. -/
  | conversionOverrun
  /-- MF2, raised by `IRQ.ADC` when the sample-ready counter is at its maximum and the configuration
  treats that as a stop (R161). Safe: the hardware goes on. -/
  | sampleCounterTop
  /-- MF3, raised by `IRQ.ADC` when the accumulator would reach its maximum and the configuration
  treats that as a stop (R161). Safe: the hardware goes on. -/
  | accumulatorTop
  deriving DecidableEq, Repr

/-- The refusals (R13): steps to which the model gives no meaning. All are safe: a claim proved of a
run with a refusal says nothing of the hardware. -/
inductive Refusal where
  /-- The instruction has no meaning in this model yet; raised by `exec`'s rejected arms only. Safe. -/
  | notModelled (mnemonic : String)
  /-- An operation word while the sequencer owns the operation port, or `FG.STEP` with no wait while
  the test master owns it (R106, R110). Safe. -/
  | portNotOwned
  /-- A foreground word in the terminal halt (R106, R272). Safe. -/
  | halted
  /-- A foreground word while the foreground sleeps (R106, R216). Safe. -/
  | asleep
  /-- An operation word while a wait is in progress (R106, R142, U13). Safe. -/
  | waitInProgress
  /-- An `IRQ.*` word whose condition of R266 does not hold. Safe. -/
  | interruptNotTakeable
  /-- `EV.ADCDONE` while agent CONV has no step (R106, R160, R272). Safe. -/
  | converterIdle
  /-- `EV.WDTEXP` while the block is not halted (R276, U7). Safe. -/
  | watchdogFed
  /-- A duration that is not below `TB_MS_WRAP` (R107, R137, R139, R141). Safe. -/
  | durationOutOfDomain
  /-- A repeat count of 0 (R102, R107, R130, R221). Safe. -/
  | repeatCountZero
  /-- `SYS.SLEEP` with `gie = 0` (R216, D35). Safe. -/
  | sleepWithInterruptsOff
  /-- The sequencer stands at a position outside the table of R232 (R48, U9). Safe. -/
  | positionOutsideTable
  /-- `w_kind` holds 6 or 7, which no step writes (R35, U9). Safe. -/
  | waitKindNeverWritten
  /-- A word that decodes to no instruction (R107), under the treatment `stop`. Safe. -/
  | illegalWord
  /-- The configuration fails a condition of R7. Safe. -/
  | badConfiguration
  deriving DecidableEq, Repr

end Sys2Proof.Machine
end

