-- ==== Sys2Proof/Machine/Operands.lean ====
section
/-! DEFINITION. Arithmetic helpers (spec/00_scope.md R11), the encodings of the enumerated registers
(spec/10_state.md R35, R45; spec/60_exceptions.md R260), the operand domains (spec/30_encoding.md R102,
R107) and the classes of instructions (R12, R104). -/

namespace Sys2Proof.Machine

/-! Arithmetic helpers (R11), on unbounded naturals. -/

/-- `clamp0_sub(A, S)`: `max(0, A - S)`. -/
def clamp0Sub (a s : Nat) : Nat := if s > a then 0 else a - s

/-- `sat_add_W(A, X)`: the sum, sticking at `2^W - 1`. -/
def satAdd (w a x : Nat) : Nat := if a + x > 2 ^ w - 1 then 2 ^ w - 1 else a + x

/-- `rshr(X, n)`: half the scale factor is added before the shift. -/
def rshr (x n : Nat) : Nat := (x + 2 ^ (n - 1)) / 2 ^ n

/-- `wrap_W(X)`. -/
def wrapW (w x : Nat) : Nat := x % 2 ^ w

/-- `mdiff(t, t0)`: milliseconds from `t0` to `t` with at most one wrap of the clock between. -/
def mdiff (c : Config) (t t0 : Nat) : Nat := if t0 ≤ t then t - t0 else t + c.msWrap - t0

/-- A Boolean as the number `RES` returns (R105). -/
def boolRes (b : Bool) : BitVec 32 := if b then 1 else 0

/-! Channels. -/

/-- The other channel: `1 - m` (R161). -/
def otherChannel : Channel → Channel
  | .ch0 => .ch1
  | .ch1 => .ch0

/-! Encodings of the enumerated registers. -/

/-- `w_kind` for no wait in progress (R35). -/
def waitNone : BitVec 3 := 0

/-- The number of a wait in `w_kind` (R35). -/
def WaitKind.code : WaitKind → BitVec 3
  | .sync => 1
  | .msNowrap => 2
  | .msWrapwait => 3
  | .tick => 4
  | .raw => 5

/-- The wait `w_kind` names; none for 0 and for 6 and 7, which are never written (R35). -/
def waitOfCode (k : BitVec 3) : Option WaitKind :=
  match k.toNat with
  | 1 => some .sync
  | 2 => some .msNowrap
  | 3 => some .msWrapwait
  | 4 => some .tick
  | 5 => some .raw
  | _ => none

/-- `ilk_state` of a position (R45, R232). -/
def Position.state : Position → BitVec 3
  | .pd0 => 0
  | .cb0 | .cb1 | .cb2 | .cb3 | .cb4 | .cb5 => 1
  | .ap0 | .ap1 | .ap2 | .ap3 | .ap4 | .ap5 | .ap6 | .ap7 => 2
  | .cl0 | .cl1 => 3
  | .ss0 | .ss1 | .ss2 | .ss3 | .ss4 | .ss5 | .ss6 | .ss7 | .ss8 | .ss9 | .ss10 | .ss11 | .ss12 => 4
  | .sd0 | .sd1 | .sd2 => 5

/-- `ilk_phase` of a position (R46, R232). -/
def Position.phase : Position → BitVec 4
  | .pd0 | .cb0 | .ap0 | .cl0 | .ss0 | .sd0 => 0
  | .cb1 | .ap1 | .cl1 | .ss1 | .sd1 => 1
  | .cb2 | .ap2 | .ss2 | .sd2 => 2
  | .cb3 | .ap3 | .ss3 => 3
  | .cb4 | .ap4 | .ss4 => 4
  | .cb5 | .ap5 | .ss5 => 5
  | .ap6 | .ss6 => 6
  | .ap7 | .ss7 => 7
  | .ss8 => 8
  | .ss9 => 9
  | .ss10 => 10
  | .ss11 => 11
  | .ss12 => 12

/-- The position that `(ilk_state, ilk_phase)` names; none outside the table of R232 (R48). -/
def positionOf (st : BitVec 3) (ph : BitVec 4) : Option Position :=
  match st.toNat, ph.toNat with
  | 0, 0 => some .pd0
  | 1, 0 => some .cb0
  | 1, 1 => some .cb1
  | 1, 2 => some .cb2
  | 1, 3 => some .cb3
  | 1, 4 => some .cb4
  | 1, 5 => some .cb5
  | 2, 0 => some .ap0
  | 2, 1 => some .ap1
  | 2, 2 => some .ap2
  | 2, 3 => some .ap3
  | 2, 4 => some .ap4
  | 2, 5 => some .ap5
  | 2, 6 => some .ap6
  | 2, 7 => some .ap7
  | 3, 0 => some .cl0
  | 3, 1 => some .cl1
  | 4, 0 => some .ss0
  | 4, 1 => some .ss1
  | 4, 2 => some .ss2
  | 4, 3 => some .ss3
  | 4, 4 => some .ss4
  | 4, 5 => some .ss5
  | 4, 6 => some .ss6
  | 4, 7 => some .ss7
  | 4, 8 => some .ss8
  | 4, 9 => some .ss9
  | 4, 10 => some .ss10
  | 4, 11 => some .ss11
  | 4, 12 => some .ss12
  | 5, 0 => some .sd0
  | 5, 1 => some .sd1
  | 5, 2 => some .sd2
  | _, _ => none

/-- The identifier of a fatal condition, the value written to `ilk_fc` (R260). -/
def FatalCondition.code : FatalCondition → BitVec 4
  | .watchdogCause => 1
  | .ocBeforePower => 2
  | .ocInSettle => 3
  | .lowPowerCheck => 4
  | .chargeCeiling => 5
  | .currentCeiling => 6
  | .voltageFloor => 7
  | .ocInterrupt => 8
  | .lpInterrupt => 9
  | .masterHalt => 10

/-! Classes of instructions. -/

/-- The agents of R12. -/
inductive Agent where
  | seq
  | cnt
  | conv
  | irq
  | env
  deriving DecidableEq, Repr

/-- The word is an operation of R103, one the operation port carries (R110). -/
def isOperation : Instr → Bool
  | .tbStart | .tbStop | .tbNow | .tbTicknum | .tbMswait _ | .tbTickwait => true
  | .tbRawstart _ | .tbRawended | .tbRawwait _ => true
  | .adcStart | .adcStop | .adcIsupdated _ | .adcCalbias _ | .adcReading _ | .adcAcccharge => true
  | .ocTripped | .ocPending | .ocClear | .ocArm => true
  | .lpTripped | .lpPending | .lpClear | .lpArm => true
  | .pwrOn | .pwrOff | .lrstAssert | .lrstRelease => true
  | .sysIrqen | .sysIrqdis | .sysSleep | .sysHalt | .wdtKick | .lampPoll => true
  | .evCount _ | .evAdcdone _ | .evOc _ | .evLp _ | .evLamp _ => false
  | .evWdtexp _ _ _ _ | .evPor _ _ _ _ => false
  | .irqOc | .irqLp | .irqAdc | .irqTov | .fgStep _ => false

/-- The agent whose step the word stands for (R12, R104). -/
def agentOf : Instr → Agent
  | .evCount _ => .cnt
  | .evAdcdone _ => .conv
  | .evOc _ | .evLp _ | .evLamp _ | .evWdtexp _ _ _ _ | .evPor _ _ _ _ => .env
  | .irqOc | .irqLp | .irqAdc | .irqTov => .irq
  | .fgStep _ => .seq
  | .tbStart | .tbStop | .tbNow | .tbTicknum | .tbMswait _ | .tbTickwait => .seq
  | .tbRawstart _ | .tbRawended | .tbRawwait _ => .seq
  | .adcStart | .adcStop | .adcIsupdated _ | .adcCalbias _ | .adcReading _ | .adcAcccharge => .seq
  | .ocTripped | .ocPending | .ocClear | .ocArm => .seq
  | .lpTripped | .lpPending | .lpClear | .lpArm => .seq
  | .pwrOn | .pwrOff | .lrstAssert | .lrstRelease => .seq
  | .sysIrqen | .sysIrqdis | .sysSleep | .sysHalt | .wdtKick | .lampPoll => .seq

end Sys2Proof.Machine
end

