-- ==== Sys2Proof/Machine/Flags.lean ====
section
/-! DEFINITION. The one-bit status flags: what sets them and what they decide (spec/10_state.md R51,
R52; spec/60_exceptions.md R262, R265, R266). No operation sets a flag as a side effect of arithmetic. -/

namespace Sys2Proof.Machine

/-- The 16-bit counter after `n` counts (R130). -/
def countedCnt (cnt : BitVec 16) (n : Nat) : BitVec 16 := BitVec.ofNat 16 (cnt.toNat + n)

/-- Whether the counter wraps from 0xFFFF to 0 within `n` counts (R130). -/
def wrapsWithin (cnt : BitVec 16) (n : Nat) : Bool := decide (65536 ≤ cnt.toNat + n)

/-- The latch of a detector when its level becomes `l`: the 0-to-1 change is latched (R190, R191). -/
def edgeLatch (pend level l : Bool) : Bool := pend || (!level && l)

/-- Flag and enable of a source are both 1 (R262). -/
def pendingEnabled (x : IrqSource) (s : State) : Bool :=
  match x with
  | .overCurrent => s.ocPend && s.ocIe
  | .lowPower => s.lpPend && s.lpIe
  | .conversion => s.adcFlag && s.adcIe
  | .overflow => s.tovFlag && s.tovIe

/-- `IRQ_ORDER`, highest priority first (R265, D23). -/
def irqOrder : List IrqSource := [.overCurrent, .lowPower, .conversion, .overflow]

/-- The sources before `x` in `IRQ_ORDER`. -/
def higherThan (x : IrqSource) : List IrqSource := irqOrder.takeWhile (fun y => decide (y ≠ x))

/-- Some interrupt is pending and enabled: the test of `SYS.SLEEP` (R216). -/
def anyPending (s : State) : Bool := irqOrder.any (fun x => pendingEnabled x s)

/-- The `IRQ.x` step is enabled (R266). -/
def takeable (x : IrqSource) (s : State) : Bool :=
  s.gie && !s.ilkHalted && pendingEnabled x s && (higherThan x).all (fun y => !pendingEnabled y s)

/-- The converter has a step (R106, R160): it runs, and a halted block takes at most one more
completion. -/
def converterReady (s : State) : Bool := s.adcEn && !(s.ilkHalted && s.adcFlag)

end Sys2Proof.Machine
end

