-- ==== Sys2Proof/WellFormed.lean ====
section
/-! DEFINITION. The operand domains (spec/30_encoding.md R102, R107): a legal word whose operand is
outside its domain is refused by value. Every other operand is admissible at every value of its
field. -/

namespace Sys2Proof

/-- The operand lies in its domain: a duration below `TB_MS_WRAP`, a repeat count of at least 1
(R102, R137, R139, R141, R130, R221). -/
def Instr.wellFormed (c : Config) : Instr → Bool
  | .tbMswait d => decide (d.toNat < c.msWrap)
  | .tbRawstart d => decide (d.toNat < c.msWrap)
  | .tbRawwait d => decide (d.toNat < c.msWrap)
  | .evCount n => decide (1 ≤ n.toNat)
  | .fgStep n => decide (1 ≤ n.toNat)
  | .tbStart | .tbStop | .tbNow | .tbTicknum | .tbTickwait | .tbRawended => true
  | .adcStart | .adcStop | .adcAcccharge => true
  | .adcIsupdated _ | .adcCalbias _ | .adcReading _ => true
  | .ocTripped | .ocPending | .ocClear | .ocArm => true
  | .lpTripped | .lpPending | .lpClear | .lpArm => true
  | .pwrOn | .pwrOff | .lrstAssert | .lrstRelease => true
  | .sysIrqen | .sysIrqdis | .sysSleep | .sysHalt | .wdtKick | .lampPoll => true
  | .evAdcdone _ | .evOc _ | .evLp _ | .evLamp _ => true
  | .evWdtexp _ _ _ _ | .evPor _ _ _ _ => true
  | .irqOc | .irqLp | .irqAdc | .irqTov => true

end Sys2Proof
end

