-- ==== Sys2Proof/Machine/Ops.lean ====
section
/-! DEFINITION. The named operations over the state: reading and writing channels, the ring and the
result, the two pulses, the position, the halt on a fatal condition (the block's exception), taking
an interrupt, the enabling of foreground words, and the next word of the trace. -/

namespace Sys2Proof.Machine

/-- What a step answers. -/
abbrev StepResult := Host.Outcome State Fault Refusal

/-! Channels and the ring (R37, R38, R80, R81). -/

/-- The Channel Accumulator of a channel. -/
def State.chan (s : State) : Channel → ChannelAcc
  | .ch0 => s.chan0
  | .ch1 => s.chan1

/-- Writes the Channel Accumulator of a channel. -/
def State.setChan (s : State) (c : Channel) (a : ChannelAcc) : State :=
  match c with
  | .ch0 => { s with chan0 := a }
  | .ch1 => { s with chan1 := a }

/-- One entry of a ring at a cursor (R81). -/
def ChannelAcc.entry (a : ChannelAcc) (k : BitVec 4) : Sample := a.ring[k.toNat]'k.isLt

/-- Writes one entry of a ring at a cursor (R81). -/
def ChannelAcc.setEntry (a : ChannelAcc) (k : BitVec 4) (x : Sample) : ChannelAcc :=
  { a with ring := a.ring.set k.toNat x k.isLt }

/-- The memory read: `ring[c][k]` (R80). -/
def State.ringAt (s : State) (c : Channel) (k : BitVec 4) : Sample := (s.chan c).entry k

/-! Results, ports and the position. -/

/-- `RES <- v` (R31, R105). -/
def State.setRes (s : State) (v : BitVec 32) : State := { s with res := v }

/-- A step that pulses neither output (R10 `pulse`). -/
def State.quiet (s : State) : State := { s with wdtKick := false, lampPollReq := false }

/-- A foreground step: it pulses `wdt_kick` (R230). -/
def State.kick (s : State) : State := { s with wdtKick := true, lampPollReq := false }

/-- `pulse lamp_poll_req` (R222). -/
def State.requestPoll (s : State) : State := { s with lampPollReq := true }

/-- `pc <- target`: the sequencer moves to a position (R10, R48). -/
def State.goto (s : State) (p : Position) : State :=
  { s with ilkState := p.state, ilkPhase := p.phase }

/-- The position the sequencer stands at (R48). -/
def State.position (s : State) : Option Position := positionOf s.ilkState s.ilkPhase

/-! The exception of this block: halting on a fatal condition (R10 `halt(id)`, R260, R272). There is
no return from it; only a reset leaves it. -/

/-- `halt(id)` with the identifier as written to `ilk_fc`. -/
def State.haltCode (s : State) (id : BitVec 4) : State :=
  { s with ilkFc := id, ilkState := 5, ilkPhase := 2, ilkHalted := true, gie := false, sleeping := false }

/-- `halt(id)` for a fatal condition. -/
def State.halt (s : State) (fc : FatalCondition) : State := s.haltCode fc.code

/-! Taking an interrupt (R266). The handler is one atomic step: entry saves nothing, every handler
clears `sleeping`, and the end of the body is the return. -/

/-- The `IRQ.x` step with its handler's body; refused when it is not enabled. -/
def takeInterrupt (x : IrqSource) (s : State) (body : State → StepResult) : StepResult :=
  if takeable x s then body { s.quiet with sleeping := false }
  else .refused .interruptNotTakeable

/-! The foreground (R106, R110). -/

/-- Why an operation word is not enabled, if it is not: the test master owns the port and the
foreground is free (R106). Which reason is named first is the model's choice (log 15). -/
def operationRefusal (s : State) : Option Refusal :=
  if s.ilkHalted then some .halted
  else if s.sleeping then some .asleep
  else if s.wKind ≠ waitNone then some .waitInProgress
  else if !s.seqHold then some .portNotOwned
  else none

/-- An operation word of the test master: refused when it is not enabled, else its effect, in a step
that pulses `wdt_kick` (R106, R230). -/
def operation (s : State) (effect : State → StepResult) : StepResult :=
  match operationRefusal s with
  | some r => .refused r
  | none => effect s.kick

/-- An operation that always completes. -/
def simpleOperation (s : State) (effect : State → State) : StepResult :=
  operation s (fun t => .next (effect t))

/-- An effect whose duration must be below `TB_MS_WRAP` (R102, R107). -/
def withDuration (d : BitVec 32) (s : State) (effect : State → State) : StepResult :=
  if d.toNat < s.cfg.msWrap then .next (effect s) else .refused .durationOutOfDomain

/-! The trace (R106, log 8). -/

/-- The next word of the trace and the state that has taken it. -/
def State.fetch (s : State) : Option (TraceWord × State) :=
  match s.trace with
  | [] => none
  | w :: rest => some (w, { s with trace := rest })

/-- A word that decodes to nothing (R107): refused, or under the treatment `hardware` an illegal
word on a port that is being sampled sets `op_err` and changes nothing else (log 11). -/
def illegalWord (s : State) : StepResult :=
  match s.cfg.onIllegal with
  | .stop => .refused .illegalWord
  | .hardware =>
    match operationRefusal s with
    | some r => .refused r
    | none => .next { s.quiet with opErr := true }

/-- The strap that gives the operation port to whoever issues the word: the test master for an
operation, the sequencer for `FG.STEP`; other words leave it (R106, R110, log 9). -/
def strapFor (w : TraceWord) (hold : Bool) : Bool :=
  if (fieldOp w).toNat < 0x50 then true
  else if (fieldOp w).toNat = 0xEC then false
  else hold

/-- The word numbered as the opcode table numbers it, put at the front of the trace, with the strap
set for its issuer (log 9). -/
def State.offerWord (s : State) (nbits w : Nat) : State :=
  let word : TraceWord := BitVec.ofNat 48 (w % 2 ^ nbits)
  { s with trace := word :: s.trace, seqHold := strapFor word s.seqHold }

end Sys2Proof.Machine
end

