-- ==== Sys2Proof/Machine/Adc.lean ====
section
/-! DEFINITION. The ADC Sampling Engine (spec/41_adc.md): the per-conversion algorithm's parts, the
operations and the conversion-complete event. The handler is in `Machine/Interrupts.lean`. -/

namespace Sys2Proof.Machine

/-! Parts of the per-conversion algorithm (R161). -/

/-- The sliding window: subtract the outgoing sample, write the incoming one, add it, advance the
cursor (R161, R81). Exact while R40 holds; elsewhere the 16-bit sum wraps (log 14). -/
def ChannelAcc.slide (a : ChannelAcc) (x : Sample) : ChannelAcc :=
  { a.setEntry a.cur x with
    sum := a.sum - (a.entry a.cur).setWidth 16 + x.setWidth 16
    cur := a.cur + 1 }

/-- The accumulator after a conversion that left the running sum `sum` (R161): the rounded eighth of
the bias-corrected sum is added, or the same of its magnitude subtracted with the clamp at zero. -/
def accumulated (c : Config) (sum bias acc : Nat) : Except Fault Nat :=
  if bias ≤ sum then
    let inc := rshr (sum - bias) accShift
    if 2 ^ c.accW - 1 ≤ acc + inc then
      match c.onAccTop with
      | .stop => .error .accumulatorTop
      | .hardware => .ok (satAdd c.accW acc inc)
    else .ok (acc + inc)
  else .ok (clamp0Sub acc (rshr (bias - sum) accShift))

/-- The sample-ready counter after one more conversion (R161, D9). -/
def srcCounted (c : Config) (src : Nat) : Except Fault Nat :=
  if src = 2 ^ c.srcW - 1 then
    match c.onSrcTop with
    | .stop => .error .sampleCounterTop
    | .hardware => .ok 0
  else .ok (src + 1)

/-! Effects of the operations. -/

/-- `reading_value(c)` (R165). -/
def readingValue (a : ChannelAcc) : Nat :=
  if a.sum.toNat ≤ a.bias.toNat then 0 else rshr (a.sum.toNat - a.bias.toNat) avgShift

/-- `ADC.START` (R162). -/
def adcStart (s : State) : State :=
  { s with adcFlag := false, adcMux := .ch0, adcIe := true, adcEn := true }

/-- `ADC.STOP` (R163). -/
def adcStop (s : State) : State := { s with adcEn := false, adcIe := false, adcFlag := false }

/-- `ADC.ISUPDATED rounds` (R166): `2 * rounds` is never truncated. -/
def adcIsupdated (rounds : BitVec 8) (s : State) : State :=
  if 2 * rounds.toNat ≤ s.src.toNat then
    { s with src := BitVec.ofNat 32 (s.src.toNat - 2 * rounds.toNat), res := boolRes true }
  else s.setRes (boolRes false)

/-- `ADC.CALBIAS ch` (R167). -/
def adcCalbias (ch : Channel) (s : State) : State :=
  { s.setChan ch { s.chan ch with bias := (s.chan ch).sum, acc := 0 } with src := 0 }

/-- `ADC.READING ch` (R168). -/
def adcReading (ch : Channel) (s : State) : State :=
  s.setRes (BitVec.ofNat 32 (readingValue (s.chan ch)))

/-- `ADC.ACCCHARGE` (R169). -/
def adcAcccharge (s : State) : State := s.setRes s.chan0.acc

/-- The converter delivers a sample (R160). -/
def State.deliver (x : Sample) (s : State) : State := { s with adcData := x, adcFlag := true }

/-! Meanings. -/

/-- `ADC.START` (R162). -/
def execAdcStart (s : State) : StepResult := simpleOperation s adcStart

/-- `ADC.STOP` (R163). -/
def execAdcStop (s : State) : StepResult := simpleOperation s adcStop

/-- `ADC.ISUPDATED rounds` (R166). -/
def execAdcIsupdated (rounds : BitVec 8) (s : State) : StepResult :=
  simpleOperation s (adcIsupdated rounds)

/-- `ADC.CALBIAS ch` (R167). -/
def execAdcCalbias (ch : Channel) (s : State) : StepResult := simpleOperation s (adcCalbias ch)

/-- `ADC.READING ch` (R168). -/
def execAdcReading (ch : Channel) (s : State) : StepResult := simpleOperation s (adcReading ch)

/-- `ADC.ACCCHARGE` (R169). -/
def execAdcAcccharge (s : State) : StepResult := simpleOperation s adcAcccharge

/-- `EV.ADCDONE s` (R160): refused while agent CONV has no step; with the previous completion
unserviced it is the overrun MF1, a fault or the hardware's overwriting (R261, log 10). -/
def execEvAdcdone (x : Sample) (s : State) : StepResult :=
  if converterReady s then
    if s.adcFlag then
      match s.cfg.onOverrun with
      | .stop => .fault .conversionOverrun
      | .hardware => .next (s.quiet.deliver x)
    else .next (s.quiet.deliver x)
  else .refused .converterIdle

end Sys2Proof.Machine
end

