-- ==== Sys2Proof/Machine/Detectors.lean ====
section
/-! DEFINITION. The over-current and low-power detectors (spec/42_detectors.md): their input events and
operations. Their interrupt handlers are in `Machine/Interrupts.lean`. -/

namespace Sys2Proof.Machine

/-! Effects of the operations. -/

/-- `OC.TRIPPED`: the level (R192). -/
def ocTripped (s : State) : State := s.setRes (boolRes s.ocLevel)

/-- `OC.PENDING`: the latch (R193). -/
def ocPending (s : State) : State := s.setRes (boolRes s.ocPend)

/-- `OC.CLEAR` (R194). -/
def ocClear (s : State) : State := { s with ocPend := false }

/-- `OC.ARM`: clears the latch and enables, in one step (R195). -/
def ocArm (s : State) : State := { s with ocPend := false, ocIe := true }

/-- `LP.TRIPPED`: the level (R196). -/
def lpTripped (s : State) : State := s.setRes (boolRes s.lpLevel)

/-- `LP.PENDING`: the latch (R197). -/
def lpPending (s : State) : State := s.setRes (boolRes s.lpPend)

/-- `LP.CLEAR` (R198). -/
def lpClear (s : State) : State := { s with lpPend := false }

/-- `LP.ARM`: clears the latch and enables, in one step (R199). -/
def lpArm (s : State) : State := { s with lpPend := false, lpIe := true }

/-! Meanings. -/

/-- `OC.TRIPPED` (R192). -/
def execOcTripped (s : State) : StepResult := simpleOperation s ocTripped

/-- `OC.PENDING` (R193). -/
def execOcPending (s : State) : StepResult := simpleOperation s ocPending

/-- `OC.CLEAR` (R194). -/
def execOcClear (s : State) : StepResult := simpleOperation s ocClear

/-- `OC.ARM` (R195). -/
def execOcArm (s : State) : StepResult := simpleOperation s ocArm

/-- `LP.TRIPPED` (R196). -/
def execLpTripped (s : State) : StepResult := simpleOperation s lpTripped

/-- `LP.PENDING` (R197). -/
def execLpPending (s : State) : StepResult := simpleOperation s lpPending

/-- `LP.CLEAR` (R198). -/
def execLpClear (s : State) : StepResult := simpleOperation s lpClear

/-- `LP.ARM` (R199). -/
def execLpArm (s : State) : StepResult := simpleOperation s lpArm

/-- `EV.OC l` (R190): enabled in every state. -/
def execEvOc (l : Bool) (s : State) : StepResult :=
  .next { s.quiet with ocPend := edgeLatch s.ocPend s.ocLevel l, ocLevel := l }

/-- `EV.LP l` (R191): enabled in every state. -/
def execEvLp (l : Bool) (s : State) : StepResult :=
  .next { s.quiet with lpPend := edgeLatch s.lpPend s.lpLevel l, lpLevel := l }

end Sys2Proof.Machine
end

