-- ==== Sys2Proof/Machine/Interlock.lean ====
section
/-! DEFINITION. The output and system operations and the lamp interface (spec/43_interlock.md sections 1
to 3) and the threshold verdict (R225). -/

namespace Sys2Proof.Machine

/-! Effects of the operations. -/

/-- `PWR.ON` (R210). -/
def pwrOn (s : State) : State := { s with pwrEn := true }

/-- `PWR.OFF` (R211). -/
def pwrOff (s : State) : State := { s with pwrEn := false }

/-- `LRST.ASSERT` (R212). -/
def lrstAssert (s : State) : State := { s with lampRst := true }

/-- `LRST.RELEASE` (R213). -/
def lrstRelease (s : State) : State := { s with lampRst := false }

/-- `SYS.IRQEN` (R214). -/
def sysIrqen (s : State) : State := { s with gie := true }

/-- `SYS.IRQDIS` (R215). -/
def sysIrqdis (s : State) : State := { s with gie := false }

/-- `SYS.SLEEP` (R216): refused with interrupts disabled; sleeps unless an interrupt is pending and
enabled. -/
def sysSleep (s : State) : StepResult :=
  if s.gie then
    if anyPending s then .next s else .next { s with sleeping := true }
  else .refused .sleepWithInterruptsOff

/-- `SYS.HALT` (R217): the recorded condition, or FC10; no `wdt_kick` pulse (R230). -/
def sysHalt (s : State) : StepResult :=
  if s.ilkFc = 0 then .next (s.quiet.halt .masterHalt)
  else .next (s.quiet.haltCode s.ilkFc)

/-- `LAMP.POLL` (R222). -/
def lampPoll (s : State) : State := s.requestPoll.setRes (boolRes s.lampChanged)

/-- The threshold verdict (R225): charge ceiling, current ceiling, voltage floor, all inclusive, the
first hit decides. -/
def verdict (c : Config) (q i v : Nat) : Option FatalCondition :=
  if c.ilkQCeil ≤ q then some .chargeCeiling
  else if c.ilkICeil ≤ i then some .currentCeiling
  else if v ≤ c.ilkVFloor then some .voltageFloor
  else none

/-! Meanings. -/

/-- `PWR.ON` (R210). -/
def execPwrOn (s : State) : StepResult := simpleOperation s pwrOn

/-- `PWR.OFF` (R211). -/
def execPwrOff (s : State) : StepResult := simpleOperation s pwrOff

/-- `LRST.ASSERT` (R212). -/
def execLrstAssert (s : State) : StepResult := simpleOperation s lrstAssert

/-- `LRST.RELEASE` (R213). -/
def execLrstRelease (s : State) : StepResult := simpleOperation s lrstRelease

/-- `SYS.IRQEN` (R214). -/
def execSysIrqen (s : State) : StepResult := simpleOperation s sysIrqen

/-- `SYS.IRQDIS` (R215). -/
def execSysIrqdis (s : State) : StepResult := simpleOperation s sysIrqdis

/-- `SYS.SLEEP` (R216). -/
def execSysSleep (s : State) : StepResult := operation s sysSleep

/-- `SYS.HALT` (R217). -/
def execSysHalt (s : State) : StepResult := operation s sysHalt

/-- `WDT.KICK` (R218): the pulse every foreground step gives, and nothing else. -/
def execWdtKick (s : State) : StepResult := simpleOperation s State.kick

/-- `LAMP.POLL` (R222). -/
def execLampPoll (s : State) : StepResult := simpleOperation s lampPoll

/-- `EV.LAMP l` (R223): enabled in every state. -/
def execEvLamp (l : Bool) (s : State) : StepResult := .next { s.quiet with lampChanged := l }

end Sys2Proof.Machine
end

