-- ==== Sys2Proof/Machine/TimeBase.lean ====
section
/-! DEFINITION. The Monotonic Time Base (spec/40_timebase.md): the clock, the operations, the wait poll
and the counter's event. Its interrupt handler is in `Machine/Interrupts.lean`. -/

namespace Sys2Proof.Machine

/-! The clock (R134). -/

/-- The overflow count `now_value` uses: one more when an overflow is pending and the counter stands
below the boundary (R134, C1). -/
def correctedOvf (s : State) : Nat :=
  if s.tovFlag = true ∧ s.tbCnt.toNat < s.cfg.tbCorrBound then wrapW s.cfg.ovfW (s.tbOvf.toNat + 1)
  else s.tbOvf.toNat

/-- The combined count `n` of R134. -/
def combinedCount (s : State) : Nat := correctedOvf s * 65536 + s.tbCnt.toNat

/-- `now_value` (R134). -/
def nowValue (s : State) : Nat := s.cfg.scaled (combinedCount s)

/-- `now_value` as the 32-bit clock (R134, R135). -/
def clock (s : State) : BitVec 32 := BitVec.ofNat 32 (nowValue s)

/-- `tb_ovf <- wrap_OVF_W(tb_ovf + 1)` with `tov_flag <- 0`: one overflow is moved into the counter
(R131, R139, R140, R141). -/
def State.countOverflow (s : State) : State :=
  { s with tovFlag := false, tbOvf := BitVec.ofNat 32 (wrapW s.cfg.ovfW (s.tbOvf.toNat + 1)) }

/-- A raw-mode poll services a pending overflow (R139, R140, R141). -/
def State.serviceOverflow (s : State) : State := if s.tovFlag then s.countOverflow else s

/-- The raw window has elapsed (R140). -/
def rawElapsed (s : State) : Bool :=
  decide (s.rawDur.toNat ≤ mdiff s.cfg (nowValue s) s.rawT0.toNat)

/-! Effects of the operations. -/

/-- `TB.START`, issue step (R132). -/
def tbStartIssue (s : State) : State :=
  { s with tovIe := false, tovFlag := false, wKind := WaitKind.code .sync }

/-- `TB.STOP` (R133). -/
def tbStop (s : State) : State := { s with tovIe := false }

/-- `TB.NOW` (R135). -/
def tbNow (s : State) : State := s.setRes (clock s)

/-- `TB.TICKNUM` (R136). -/
def tbTicknum (s : State) : State := s.setRes s.tbOvf

/-- The procedure `mswait_issue(d)` of `TB.MSWAIT` (R137). -/
def mswaitIssue (d : Nat) (s : State) : State :=
  if d = 0 then { s with wKind := waitNone }
  else
    let t0 := nowValue s
    let room := s.cfg.msWrap - t0
    if d < room then
      { s with wT0 := BitVec.ofNat 32 t0, wTarget := BitVec.ofNat 32 (t0 + d),
               wKind := WaitKind.code .msNowrap }
    else
      { s with wT0 := BitVec.ofNat 32 t0, wRem := BitVec.ofNat 32 (d - room),
               wKind := WaitKind.code .msWrapwait }

/-- `TB.TICKWAIT`, issue step (R138). -/
def tbTickwaitIssue (s : State) : State :=
  { s with wT0 := s.tbOvf, wKind := WaitKind.code .tick }

/-- Opens a raw window of `d` milliseconds that begins at `t0` (R139). -/
def State.openWindow (t0 d : BitVec 32) (s : State) : State :=
  { s with rawT0 := t0, rawDur := d }

/-- `TB.RAWSTART d` (R139): the window begins at the clock read after a pending overflow is serviced. -/
def tbRawstart (d : BitVec 32) (s : State) : State :=
  s.serviceOverflow.openWindow (clock s.serviceOverflow) d

/-- `TB.RAWENDED` (R140). -/
def tbRawended (s : State) : State :=
  s.serviceOverflow.setRes (boolRes (rawElapsed s.serviceOverflow))

/-- `TB.RAWWAIT d`, issue step (R141). -/
def tbRawwaitIssue (d : BitVec 32) (s : State) : State :=
  { tbRawstart d s with wKind := WaitKind.code .raw }

/-! The wait poll (R142). -/

/-- The poll of `TB.START` (R132). -/
def pollSync (s : State) : State :=
  if s.tovFlag then { s with tbOvf := 0, tovFlag := false, tovIe := true, wKind := waitNone } else s

/-- The poll of `TB.MSWAIT` before the wrap of the clock (R137). -/
def pollMsNowrap (s : State) : State :=
  if s.wTarget.toNat ≤ nowValue s ∨ nowValue s < s.wT0.toNat then { s with wKind := waitNone } else s

/-- The poll of `TB.MSWAIT` that waits for the wrap of the clock (R137). -/
def pollMsWrapwait (s : State) : State :=
  if nowValue s < s.wT0.toNat then mswaitIssue s.wRem.toNat s else s

/-- The poll of `TB.TICKWAIT` (R138). -/
def pollTick (s : State) : State := if s.tbOvf ≠ s.wT0 then { s with wKind := waitNone } else s

/-- The poll of `TB.RAWWAIT` (R141). -/
def pollRaw (s : State) : State :=
  if rawElapsed s.serviceOverflow then { s.serviceOverflow with wKind := waitNone }
  else s.serviceOverflow

/-- The poll of the wait in progress, selected by `w_kind` (R142). -/
def waitPoll (s : State) : StepResult :=
  match waitOfCode s.wKind with
  | some .sync => .next (pollSync s)
  | some .msNowrap => .next (pollMsNowrap s)
  | some .msWrapwait => .next (pollMsWrapwait s)
  | some .tick => .next (pollTick s)
  | some .raw => .next (pollRaw s)
  | none => .refused .waitKindNeverWritten

/-! The counter (R130). -/

/-- `n` counts of the hardware counter, in one formula (R130, R102, log 17). -/
def State.countBy (n : Nat) (s : State) : State :=
  { s with tbCnt := countedCnt s.tbCnt n, tovFlag := s.tovFlag || wrapsWithin s.tbCnt n }

/-! Meanings. -/

/-- `TB.START` (R132). -/
def execTbStart (s : State) : StepResult := simpleOperation s tbStartIssue

/-- `TB.STOP` (R133). -/
def execTbStop (s : State) : StepResult := simpleOperation s tbStop

/-- `TB.NOW` (R135). -/
def execTbNow (s : State) : StepResult := simpleOperation s tbNow

/-- `TB.TICKNUM` (R136). -/
def execTbTicknum (s : State) : StepResult := simpleOperation s tbTicknum

/-- `TB.MSWAIT d` (R137). -/
def execTbMswait (d : BitVec 32) (s : State) : StepResult :=
  operation s (fun t => withDuration d t (mswaitIssue d.toNat))

/-- `TB.TICKWAIT` (R138). -/
def execTbTickwait (s : State) : StepResult := simpleOperation s tbTickwaitIssue

/-- `TB.RAWSTART d` (R139). -/
def execTbRawstart (d : BitVec 32) (s : State) : StepResult :=
  operation s (fun t => withDuration d t (tbRawstart d))

/-- `TB.RAWENDED` (R140). -/
def execTbRawended (s : State) : StepResult := simpleOperation s tbRawended

/-- `TB.RAWWAIT d` (R141). -/
def execTbRawwait (d : BitVec 32) (s : State) : StepResult :=
  operation s (fun t => withDuration d t (tbRawwaitIssue d))

/-- `EV.COUNT n` (R130): enabled in every state; a repeat count of 0 is refused. -/
def execEvCount (n : BitVec 32) (s : State) : StepResult :=
  if n.toNat = 0 then .refused .repeatCountZero else .next (s.quiet.countBy n.toNat)

end Sys2Proof.Machine
end

