-- ==== Sys2Proof/Machine/Interrupts.lean ====
section
/-! DEFINITION. The four interrupt handlers: the detectors' escape hatches (spec/60_exceptions.md R268,
R269), the conversion-complete handler (spec/41_adc.md R161) and the timer-overflow handler
(spec/40_timebase.md R131). Taking one is `takeInterrupt` (R266). -/

namespace Sys2Proof.Machine

/-- The body of `IRQ.OC` (R268): power is cut, then the halt; the lamp reset is not written. -/
def handleOc (s : State) : StepResult :=
  .next ({ s with pwrEn := false }.halt .ocInterrupt)

/-- The body of `IRQ.LP` (R269): power is cut and the lamp held in reset, then the halt. -/
def handleLp (s : State) : StepResult :=
  .next ({ s with pwrEn := false, lampRst := true }.halt .lpInterrupt)

/-- The body of `IRQ.ADC` (R161), in the source's order: window, accumulator, round counter,
selector. -/
def handleAdc (s : State) : StepResult :=
  let m := s.adcMux
  let a := (s.chan m).slide s.adcData
  match accumulated s.cfg a.sum.toNat a.bias.toNat a.acc.toNat with
  | .error f => .fault f
  | .ok acc =>
    match srcCounted s.cfg s.src.toNat with
    | .error f => .fault f
    | .ok n =>
      .next { s.setChan m { a with acc := BitVec.ofNat 32 acc } with
        src := BitVec.ofNat 32 n, adcMux := otherChannel m, adcFlag := false }

/-- The body of `IRQ.TOV` (R131). -/
def handleTov (s : State) : StepResult := .next s.countOverflow

/-! Meanings. -/

/-- `IRQ.OC` (R268). -/
def execIrqOc (s : State) : StepResult := takeInterrupt .overCurrent s handleOc

/-- `IRQ.LP` (R269). -/
def execIrqLp (s : State) : StepResult := takeInterrupt .lowPower s handleLp

/-- `IRQ.ADC` (R161). -/
def execIrqAdc (s : State) : StepResult := takeInterrupt .conversion s handleAdc

/-- `IRQ.TOV` (R131). -/
def execIrqTov (s : State) : StepResult := takeInterrupt .overflow s handleTov

end Sys2Proof.Machine
end

