-- ==== Sys2Proof/Machine/Reset.lean ====
section
/-! DEFINITION. The two reset events (spec/70_reset_and_hazards.md R300). -/

namespace Sys2Proof.Machine

/-- A full device reset (R300): every register takes its value of R54, the cause is recorded, and the
strap, the two levels and the counter's phase are the draws the word carries. The configuration and
the rest of the trace are no registers and stay. -/
def State.resetTo (s : State) (wdt hold oc lp : Bool) (cnt : BitVec 16) : State :=
  { State.reset with
    rstCauseWdt := wdt
    seqHold := hold
    ocLevel := oc
    lpLevel := lp
    tbCnt := cnt
    cfg := s.cfg
    trace := s.trace }

/-- `EV.POR` (R300): enabled in every state. -/
def execEvPor (hold oc lp : Bool) (cnt : BitVec 16) (s : State) : StepResult :=
  .next (s.resetTo false hold oc lp cnt)

/-- `EV.WDTEXP` (R300): enabled exactly when the block is halted (R276). -/
def execEvWdtexp (hold oc lp : Bool) (cnt : BitVec 16) (s : State) : StepResult :=
  if s.ilkHalted then .next (s.resetTo true hold oc lp cnt) else .refused .watchdogFed

end Sys2Proof.Machine
end

