-- ==== Sys2Proof/Machine/Sequencer.lean ====
section
/-! DEFINITION. The sequencer (spec/43_interlock.md R230 to R240): the micro-step table of R232 and the
word `FG.STEP` (R221). A micro-step issues its operation through that operation's own effect. -/

namespace Sys2Proof.Machine

/-- `RES = 1`: the condition of the sequencer's branches (R240). -/
def resTrue (s : State) : Bool := decide (s.res = 1)

/-- The sequencer moves to one of two positions by `RES = 1` (R232, R240). -/
def State.branch (s : State) (yes no : Position) : State := s.goto (if resTrue s then yes else no)

/-- Notes the fatal condition a step has found and moves on to the actions before the halt (R232,
R260). -/
def State.note (s : State) (fc : FatalCondition) (p : Position) : State :=
  { s with ilkFc := fc.code }.goto p

/-- `RES[OVF_W-1:0]` (R232). -/
def resTick (s : State) : BitVec 32 := BitVec.ofNat 32 (wrapW s.cfg.ovfW s.res.toNat)

/-- `RES[ACC_W-1:0]` (R232). -/
def resAcc (s : State) : BitVec 32 := BitVec.ofNat 32 (wrapW s.cfg.accW s.res.toNat)

/-- `RES[9:0]` (R232). -/
def resSample (s : State) : BitVec 10 := s.res.extractLsb' 0 10

/-- PD.0: the strap, then the reset cause (R232, R233). The halting case gives no `wdt_kick`. -/
def stepPoweredDown (s : State) : State :=
  if s.seqHold then s
  else if s.rstCauseWdt then s.quiet.halt .watchdogCause
  else s.goto .cb0

/-- CB.5: over-current before power is applied (R232, R234). -/
def stepCheckBeforePower (s : State) : State :=
  let t := ocTripped s
  if resTrue t then t.halt .ocBeforePower else t.goto .ap0

/-- AP.2: the poll of the settle window (R232, R235). -/
def stepSettlePoll (s : State) : State :=
  let t := ocTripped s
  if resTrue t then t.note .ocInSettle .ap5 else t.goto .ap3

/-- CL.0: the one-shot low-power check (R232, R236). -/
def stepLowPowerCheck (s : State) : State :=
  let t := lpTripped s
  if resTrue t then t.note .lowPowerCheck .sd0 else t.goto .cl1

/-- SS.9: the threshold verdict (R232, R225, R226). -/
def stepVerdict (s : State) : State :=
  match verdict s.cfg s.ilkQ.toNat s.ilkI.toNat s.ilkV.toNat with
  | none => { s with ilkCadence := ilkCadenceSteady }.goto .ss4
  | some .currentCeiling => { s with pwrEn := false }.note .currentCeiling .sd2
  | some fc => s.note fc .sd0

/-- SS.10: the tick branch (R232, R237). -/
def stepTickBranch (s : State) : State :=
  let t := tbTicknum s
  if resTick t ≠ t.ilkLastTick then { t with ilkLastTick := resTick t }.goto .ss11 else t.goto .ss4

/-- SS.11: the lamp poll (R232, R226). -/
def stepLampPoll (s : State) : State :=
  let t := lampPoll s
  if resTrue t then { t with ilkCadence := ilkCadenceReactive }.goto .ss12 else t.goto .ss4

/-- The micro-step table (R232), on a state that has given its `wdt_kick` pulse (R230). -/
def microStep (p : Position) (s : State) : StepResult :=
  match p with
  | .pd0 => .next (stepPoweredDown s)
  | .cb0 => withDuration s.cfg.ilkPrecalSettleMs s
      (fun t => (tbRawwaitIssue t.cfg.ilkPrecalSettleMs t).goto .cb1)
  | .cb1 => .next ((sysIrqen s).goto .cb2)
  | .cb2 => .next ((adcStart s).goto .cb3)
  | .cb3 => .next ((adcIsupdated s.cfg.ilkCalRounds s).branch .cb4 .cb3)
  | .cb4 => .next ((adcCalbias .ch0 s).goto .cb5)
  | .cb5 => .next (stepCheckBeforePower s)
  | .ap0 => .next ((pwrOn s).goto .ap1)
  | .ap1 => withDuration ilkPowerSettleMs s (fun t => (tbRawstart ilkPowerSettleMs t).goto .ap2)
  | .ap2 => .next (stepSettlePoll s)
  | .ap3 => .next ((tbRawended s).branch .ap4 .ap2)
  | .ap4 => .next ((ocArm s).goto .cl0)
  | .ap5 => .next ((pwrOff s).goto .ap6)
  | .ap6 => .next ((lrstAssert s).goto .ap7)
  | .ap7 => sysHalt s
  | .cl0 => .next (stepLowPowerCheck s)
  | .cl1 => .next ((lpArm s).goto .ss0)
  | .ss0 => .next ((lrstRelease s).goto .ss1)
  | .ss1 => .next ((tbStartIssue s).goto .ss2)
  | .ss2 =>
    let t := tbTicknum s
    .next ({ t with ilkLastTick := resTick t, ilkCadence := ilkCadenceSteady }.goto .ss3)
  | .ss3 =>
    let t := tbNow s
    .next ({ t with ilkLastChange := t.res }.goto .ss4)
  | .ss4 => sysSleep (s.goto .ss5)
  | .ss5 => .next ((adcIsupdated (s.ilkCadence.setWidth 8) s).branch .ss6 .ss10)
  | .ss6 =>
    let t := adcAcccharge s
    .next ({ t with ilkQ := resAcc t }.goto .ss7)
  | .ss7 =>
    let t := adcReading .ch0 s
    .next ({ t with ilkI := resSample t }.goto .ss8)
  | .ss8 =>
    let t := adcReading .ch1 s
    .next ({ t with ilkV := resSample t }.goto .ss9)
  | .ss9 => .next (stepVerdict s)
  | .ss10 => .next (stepTickBranch s)
  | .ss11 => .next (stepLampPoll s)
  | .ss12 =>
    let t := tbNow s
    .next ({ t with ilkLastChange := t.res }.goto .ss4)
  | .sd0 => .next ((lrstAssert s).goto .sd1)
  | .sd1 => .next ((pwrOff s).goto .sd2)
  | .sd2 => sysHalt s

/-- The micro-step at the sequencer's position; refused outside the table (R48). -/
def sequencerStep (s : State) : StepResult :=
  match s.position with
  | some p => microStep p s
  | none => .refused .positionOutsideTable

/-- One step of the foreground's own (R221): the wait poll if a wait is in progress, else, when the
sequencer owns the port, one micro-step. -/
def foregroundStep (s : State) : StepResult :=
  if s.ilkHalted then .refused .halted
  else if s.sleeping then .refused .asleep
  else if s.wKind ≠ waitNone then waitPoll s.kick
  else if s.seqHold then .refused .portNotOwned
  else sequencerStep s.kick

/-- `n` foreground steps in succession; the word is refused at the first that is not enabled (R221). -/
def foregroundSteps : Nat → State → StepResult
  | 0, s => .next s
  | n + 1, s =>
    match foregroundStep s with
    | .next t => foregroundSteps n t
    | .fault f => .fault f
    | .refused r => .refused r

/-- `FG.STEP n` (R221): a repeat count of 0 is refused. DESIGN CHOICE (log 15): in a state where the word is
not enabled either, the repeat count is the reason named, since the spec orders no reasons. -/
def execFgStep (n : BitVec 32) (s : State) : StepResult :=
  if n.toNat = 0 then .refused .repeatCountZero else foregroundSteps n.toNat s

end Sys2Proof.Machine
end

