-- ==== Sys2Proof/Machine/Dispatch.lean ====
section
/-! DEFINITION. The dispatch: one arm per constructor of `Instr`, each one direct call of its meaning. -/

namespace Sys2Proof.Machine

def exec (i : Instr) (s : State) : Host.Outcome State Fault Refusal :=
  match i with
  | .tbStart => Sys2Proof.Machine.execTbStart s
  | .tbStop => Sys2Proof.Machine.execTbStop s
  | .tbNow => Sys2Proof.Machine.execTbNow s
  | .tbTicknum => Sys2Proof.Machine.execTbTicknum s
  | .tbMswait d => Sys2Proof.Machine.execTbMswait d s
  | .tbTickwait => Sys2Proof.Machine.execTbTickwait s
  | .tbRawstart d => Sys2Proof.Machine.execTbRawstart d s
  | .tbRawended => Sys2Proof.Machine.execTbRawended s
  | .tbRawwait d => Sys2Proof.Machine.execTbRawwait d s
  | .adcStart => Sys2Proof.Machine.execAdcStart s
  | .adcStop => Sys2Proof.Machine.execAdcStop s
  | .adcIsupdated rounds => Sys2Proof.Machine.execAdcIsupdated rounds s
  | .adcCalbias ch => Sys2Proof.Machine.execAdcCalbias ch s
  | .adcReading ch => Sys2Proof.Machine.execAdcReading ch s
  | .adcAcccharge => Sys2Proof.Machine.execAdcAcccharge s
  | .ocTripped => Sys2Proof.Machine.execOcTripped s
  | .ocPending => Sys2Proof.Machine.execOcPending s
  | .ocClear => Sys2Proof.Machine.execOcClear s
  | .ocArm => Sys2Proof.Machine.execOcArm s
  | .lpTripped => Sys2Proof.Machine.execLpTripped s
  | .lpPending => Sys2Proof.Machine.execLpPending s
  | .lpClear => Sys2Proof.Machine.execLpClear s
  | .lpArm => Sys2Proof.Machine.execLpArm s
  | .pwrOn => Sys2Proof.Machine.execPwrOn s
  | .pwrOff => Sys2Proof.Machine.execPwrOff s
  | .lrstAssert => Sys2Proof.Machine.execLrstAssert s
  | .lrstRelease => Sys2Proof.Machine.execLrstRelease s
  | .sysIrqen => Sys2Proof.Machine.execSysIrqen s
  | .sysIrqdis => Sys2Proof.Machine.execSysIrqdis s
  | .sysSleep => Sys2Proof.Machine.execSysSleep s
  | .sysHalt => Sys2Proof.Machine.execSysHalt s
  | .wdtKick => Sys2Proof.Machine.execWdtKick s
  | .lampPoll => Sys2Proof.Machine.execLampPoll s
  | .evCount n => Sys2Proof.Machine.execEvCount n s
  | .evAdcdone x => Sys2Proof.Machine.execEvAdcdone x s
  | .evOc l => Sys2Proof.Machine.execEvOc l s
  | .evLp l => Sys2Proof.Machine.execEvLp l s
  | .evLamp l => Sys2Proof.Machine.execEvLamp l s
  | .evWdtexp hold oc lp cnt => Sys2Proof.Machine.execEvWdtexp hold oc lp cnt s
  | .evPor hold oc lp cnt => Sys2Proof.Machine.execEvPor hold oc lp cnt s
  | .irqOc => Sys2Proof.Machine.execIrqOc s
  | .irqLp => Sys2Proof.Machine.execIrqLp s
  | .irqAdc => Sys2Proof.Machine.execIrqAdc s
  | .irqTov => Sys2Proof.Machine.execIrqTov s
  | .fgStep n => Sys2Proof.Machine.execFgStep n s

end Sys2Proof.Machine
end

