-- ==== Sys2Proof/Machine/Step.lean ====
section
/-! DEFINITION. One step of the machine: the next word of the trace is decoded and executed (spec/00_scope.md
R12, R13; spec/30_encoding.md R106, R107). -/

namespace Sys2Proof.Machine

/-- One step. A configuration that fails R7 is refused. With no word left no agent moves: the step
holds (R10 `hold`, log 8). An illegal word is handled by `illegalWord` (R107). The word a stop is about is
the first of `s.trace`; over a whole trace `executeTrace` names it with its place (R106). -/
def step (s : State) : Host.Outcome State Fault Refusal :=
  if s.cfg.valid then
    match s.fetch with
    | none => .next s.quiet
    | some (w, t) =>
      match decode w with
      | .ok i => exec i t
      | .error _ => illegalWord t
  else .refused .badConfiguration

/-- `s` with the instruction of the table's word `w` as the next word of its trace, and the strap set
for the word's issuer, so that the very next step runs it (log 9). -/
def State.withFetchWord (s : State) (nbits w : Nat) : State := s.offerWord nbits w

end Sys2Proof.Machine
end

