-- ==== Sys2Proof/Machine/Assembly.lean ====
section
/-! DEFINITION. The block's assembly (spec/30_encoding.md R106, R108): mnemonics, the text of a word, the
assembler on a mnemonic and its operand values, the pseudo-operations, and the execution of a trace,
which says where it stops and on which word. -/

namespace Sys2Proof.Machine

/-- The mnemonic of an instruction (R103, R104). -/
def mnemonicOf : Instr → String
  | .tbStart => "TB.START"
  | .tbStop => "TB.STOP"
  | .tbNow => "TB.NOW"
  | .tbTicknum => "TB.TICKNUM"
  | .tbMswait _ => "TB.MSWAIT"
  | .tbTickwait => "TB.TICKWAIT"
  | .tbRawstart _ => "TB.RAWSTART"
  | .tbRawended => "TB.RAWENDED"
  | .tbRawwait _ => "TB.RAWWAIT"
  | .adcStart => "ADC.START"
  | .adcStop => "ADC.STOP"
  | .adcIsupdated _ => "ADC.ISUPDATED"
  | .adcCalbias _ => "ADC.CALBIAS"
  | .adcReading _ => "ADC.READING"
  | .adcAcccharge => "ADC.ACCCHARGE"
  | .ocTripped => "OC.TRIPPED"
  | .ocPending => "OC.PENDING"
  | .ocClear => "OC.CLEAR"
  | .ocArm => "OC.ARM"
  | .lpTripped => "LP.TRIPPED"
  | .lpPending => "LP.PENDING"
  | .lpClear => "LP.CLEAR"
  | .lpArm => "LP.ARM"
  | .pwrOn => "PWR.ON"
  | .pwrOff => "PWR.OFF"
  | .lrstAssert => "LRST.ASSERT"
  | .lrstRelease => "LRST.RELEASE"
  | .sysIrqen => "SYS.IRQEN"
  | .sysIrqdis => "SYS.IRQDIS"
  | .sysSleep => "SYS.SLEEP"
  | .sysHalt => "SYS.HALT"
  | .wdtKick => "WDT.KICK"
  | .lampPoll => "LAMP.POLL"
  | .evCount _ => "EV.COUNT"
  | .evAdcdone _ => "EV.ADCDONE"
  | .evOc _ => "EV.OC"
  | .evLp _ => "EV.LP"
  | .evLamp _ => "EV.LAMP"
  | .evWdtexp _ _ _ _ => "EV.WDTEXP"
  | .evPor _ _ _ _ => "EV.POR"
  | .irqOc => "IRQ.OC"
  | .irqLp => "IRQ.LP"
  | .irqAdc => "IRQ.ADC"
  | .irqTov => "IRQ.TOV"
  | .fgStep _ => "FG.STEP"

/-- A Boolean as the digit the text form writes. -/
def bitText (b : Bool) : String := if b then "1" else "0"

/-- A channel as the digit the text form writes. -/
def channelText (c : Channel) : String := bitText c.bit

/-- The operands of a reset word (R106, format X). -/
def resetText (hold oc lp : Bool) (cnt : BitVec 16) : String :=
  " hold=" ++ bitText hold ++ " oc=" ++ bitText oc ++ " lp=" ++ bitText lp ++ " cnt=" ++ toString cnt.toNat

/-- The operands of a word in the text form of R106, each preceded by a space. -/
def operandText : Instr → String
  | .tbMswait d => " " ++ toString d.toNat
  | .tbRawstart d => " " ++ toString d.toNat
  | .tbRawwait d => " " ++ toString d.toNat
  | .adcIsupdated rounds => " " ++ toString rounds.toNat
  | .adcCalbias ch => " " ++ channelText ch
  | .adcReading ch => " " ++ channelText ch
  | .evCount d => " " ++ toString d.toNat
  | .evAdcdone x => " " ++ toString x.toNat
  | .evOc l => " " ++ bitText l
  | .evLp l => " " ++ bitText l
  | .evLamp l => " " ++ bitText l
  | .evWdtexp hold oc lp cnt => resetText hold oc lp cnt
  | .evPor hold oc lp cnt => resetText hold oc lp cnt
  | .fgStep d => " " ++ toString d.toNat
  | .tbStart | .tbStop | .tbNow | .tbTicknum | .tbTickwait | .tbRawended | .adcStart => ""
  | .adcStop | .adcAcccharge | .ocTripped | .ocPending | .ocClear | .ocArm | .lpTripped => ""
  | .lpPending | .lpClear | .lpArm | .pwrOn | .pwrOff | .lrstAssert | .lrstRelease => ""
  | .sysIrqen | .sysIrqdis | .sysSleep | .sysHalt | .wdtKick | .lampPoll | .irqOc => ""
  | .irqLp | .irqAdc | .irqTov => ""

/-- The text of a word: the mnemonic, then its operands (R106). -/
def asmText (i : Instr) : String := mnemonicOf i ++ operandText i

/-- A number as a field of `w` bits; none when it does not fit. -/
def fitField (w n : Nat) : Option (BitVec w) := if n < 2 ^ w then some (BitVec.ofNat w n) else none

/-- A number as a one-bit operand. -/
def fitBit (n : Nat) : Option Bool :=
  match n with
  | 0 => some false
  | 1 => some true
  | _ => none

/-- A number as a channel. -/
def fitChannel (n : Nat) : Option Channel := (fitBit n).map channelOfBit

/-- A format X word from its four operand values. -/
def fitReset (i : Bool → Bool → Bool → BitVec 16 → Instr) (h o l c : Nat) : Option Instr :=
  match fitBit h, fitBit o, fitBit l, fitField 16 c with
  | some h, some o, some l, some c => some (i h o l c)
  | _, _, _, _ => none

/-- The words of R103 and R104 with no operand, by mnemonic. -/
def plainWords : List Instr :=
  [.tbStart, .tbStop, .tbNow, .tbTicknum, .tbTickwait, .tbRawended, .adcStart,
   .adcStop, .adcAcccharge, .ocTripped, .ocPending, .ocClear, .ocArm, .lpTripped,
   .lpPending, .lpClear, .lpArm, .pwrOn, .pwrOff, .lrstAssert, .lrstRelease,
   .sysIrqen, .sysIrqdis, .sysSleep, .sysHalt, .wdtKick, .lampPoll, .irqOc,
   .irqLp, .irqAdc, .irqTov]

/-- One operation or event from a mnemonic and its operand values (R106); none when the mnemonic or
an operand is none the assembler knows. -/
def assembleWord (mnemonic : String) (operands : List Nat) : Option Instr :=
  match operands with
  | [] => plainWords.find? (fun i => mnemonicOf i == mnemonic)
  | [n] =>
    if mnemonic == "TB.MSWAIT" then (fitField 32 n).map .tbMswait
    else if mnemonic == "TB.RAWSTART" then (fitField 32 n).map .tbRawstart
    else if mnemonic == "TB.RAWWAIT" then (fitField 32 n).map .tbRawwait
    else if mnemonic == "ADC.ISUPDATED" then (fitField 8 n).map .adcIsupdated
    else if mnemonic == "ADC.CALBIAS" then (fitChannel n).map .adcCalbias
    else if mnemonic == "ADC.READING" then (fitChannel n).map .adcReading
    else if mnemonic == "EV.COUNT" then (fitField 32 n).map .evCount
    else if mnemonic == "EV.ADCDONE" then (fitField 10 n).map .evAdcdone
    else if mnemonic == "EV.OC" then (fitBit n).map .evOc
    else if mnemonic == "EV.LP" then (fitBit n).map .evLp
    else if mnemonic == "EV.LAMP" then (fitBit n).map .evLamp
    else if mnemonic == "FG.STEP" then (fitField 32 n).map .fgStep
    else none
  | [h, o, l, c] =>
    if mnemonic == "EV.POR" then fitReset .evPor h o l c
    else if mnemonic == "EV.WDTEXP" then fitReset .evWdtexp h o l c
    else none
  | _ => none

/-- The pseudo-operations (R108). -/
inductive PseudoOp where
  /-- `ILK.SHUTDOWN`: the controlled shutdown. -/
  | ilkShutdown
  /-- `ILK.CUT`: the immediate uncontrolled power cut. -/
  | ilkCut
  /-- `ILK.MEASURE`: the three readings of a measurement. -/
  | ilkMeasure
  /-- `TICK n`: `n` full timer periods, each with its overflow serviced. -/
  | tick (n : Nat)
  /-- `CONV s`: one conversion with its handler. -/
  | conv (sample : Sample)
  deriving DecidableEq, Repr

/-- The expansion of a pseudo-operation (R108). -/
def expandPseudo : PseudoOp → List Instr
  | .ilkShutdown => [.lrstAssert, .pwrOff, .sysHalt]
  | .ilkCut => [.pwrOff, .sysHalt]
  | .ilkMeasure => [.adcAcccharge, .adcReading .ch0, .adcReading .ch1]
  | .tick n => (List.replicate n [Instr.evCount 65536, Instr.irqTov]).flatten
  | .conv x => [.evAdcdone x, .irqAdc]

/-- A pseudo-operation from its name and operand values (R108). -/
def pseudoOf (name : String) (operands : List Nat) : Option PseudoOp :=
  match operands with
  | [] =>
    if name == "ILK.SHUTDOWN" then some .ilkShutdown
    else if name == "ILK.CUT" then some .ilkCut
    else if name == "ILK.MEASURE" then some .ilkMeasure
    else none
  | [n] =>
    if name == "TICK" then some (.tick n)
    else if name == "CONV" then (fitField 10 n).map .conv
    else none
  | _ => none

/-- The assembler on one line: a word, or the expansion of a pseudo-operation (R106, R108). -/
def assembleLine (name : String) (operands : List Nat) : Option (List Instr) :=
  match assembleWord name operands with
  | some i => some [i]
  | none => (pseudoOf name operands).map expandPseudo

/-- Executing a list of instructions from a state: in order, stopping at the first that faults or is
refused (R106). Of a trace of words, `executeTrace` says which word that was. -/
def execAll : List Instr → State → StepResult
  | [], s => .next s
  | i :: rest, s =>
    match exec i s with
    | .next t => execAll rest t
    | .fault f => .fault f
    | .refused r => .refused r

/-! Executing a trace of words (R106, R13). -/

/-- What executing a trace answers: that every word was enabled in its turn, or at which word it
stopped (its place, from 0, and the word itself) and why (R106, R13, log 25). -/
inductive TraceOutcome where
  /-- Every word had a next state; the state after the last. -/
  | completed (s : State)
  /-- The word at `place` is the first that faults (R13). -/
  | faulted (place : Nat) (word : TraceWord) (f : Fault)
  /-- The word at `place` is the first that is not enabled, or has no meaning (R106, R13). -/
  | refused (place : Nat) (word : TraceWord) (r : Refusal)
  deriving DecidableEq, Repr

/-- Executes the words `ws` in order, one `step` each, the first of them standing at `place` (R106). -/
def executeFrom (place : Nat) (ws : List TraceWord) (s : State) : TraceOutcome :=
  match ws with
  | [] => .completed { s with trace := [] }
  | w :: rest =>
    match step { s with trace := w :: rest } with
    | .next t => executeFrom (place + 1) rest t
    | .fault f => .faulted place w f
    | .refused r => .refused place w r

/-- Executing a trace from a state: its words in order; an ill-formed trace is refused at the first word
that is not enabled, and the answer says which (R106). -/
def executeTrace (ws : List TraceWord) (s : State) : TraceOutcome := executeFrom 0 ws s

/-- The trace is well-formed from the state: no word is refused in its turn (R106). After a fault no
word has a turn (log 25). -/
def traceWellFormed (ws : List TraceWord) (s : State) : Bool :=
  match executeTrace ws s with
  | .completed _ => true
  | .faulted _ _ _ => true
  | .refused _ _ _ => false

end Sys2Proof.Machine
end

