-- ==== Sys2Proof/Safety.lean ====
section
/-! DEFINITION. The terms claims are stated in: when the foreground is free, what an operation does, the
counter's single count, and what holds of the state at every step of a run. -/

namespace Sys2Proof.Machine

/-! Conditions on a state. -/

/-- The foreground is free and the test master owns the operation port (R106). -/
abbrev ForegroundFree (s : State) : Prop :=
  s.seqHold = true ∧ s.ilkHalted = false ∧ s.sleeping = false ∧ s.wKind = 0

/-- The foreground may step at all: neither halted nor asleep (R221). -/
abbrev Awake (s : State) : Prop := s.ilkHalted = false ∧ s.sleeping = false

/-- The sequencer's next step is the micro-step at `p`: it owns the port, no wait is in progress and it
stands at `p` (R221, R230, R232). -/
abbrev SequencerAt (p : Position) (s : State) : Prop :=
  Awake s ∧ s.wKind = 0 ∧ s.seqHold = false ∧ s.ilkState = p.state ∧ s.ilkPhase = p.phase

/-- The operation `i` has the effect `f` when the foreground is free, and is refused when it is not
(R106). -/
abbrev OperationEffect (i : Instr) (f : State → State) : Prop :=
  ∀ s : State, (ForegroundFree s → exec i s = .next (f s)) ∧
    (¬ForegroundFree s → ∃ r, exec i s = .refused r)

/-- The state after a foreground step that moves the sequencer to `(st, ph)` and does nothing else
(R230, R232). -/
abbrev movedTo (st : BitVec 3) (ph : BitVec 4) (s : State) : State :=
  { s with ilkState := st, ilkPhase := ph, wdtKick := true, lampPollReq := false }

/-- The state with a pending overflow moved into the overflow counter (R139, R140, R141). -/
abbrev overflowServiced (s : State) : State :=
  { s with
    tovFlag := false
    tbOvf := if s.tovFlag = true then BitVec.ofNat 32 ((s.tbOvf.toNat + 1) % 2 ^ s.cfg.ovfW) else s.tbOvf }

/-- The milliseconds from the start of the raw window to now, with one wrap of the clock (R11, R140). -/
abbrev windowAge (s : State) : Nat :=
  if s.rawT0.toNat ≤ nowValue s then nowValue s - s.rawT0.toNat
  else nowValue s + s.cfg.msWrap - s.rawT0.toNat

/-- The condition of an `IRQ.x` word but for the sources of higher priority (R266). -/
abbrev Interruptible (s : State) : Prop := s.gie = true ∧ s.ilkHalted = false

/-- The over-current source is pending and enabled (R262). -/
abbrev OcPending (s : State) : Prop := s.ocPend = true ∧ s.ocIe = true

/-- The low-power source is pending and enabled (R262). -/
abbrev LpPending (s : State) : Prop := s.lpPend = true ∧ s.lpIe = true

/-- The conversion-complete source is pending and enabled (R262). -/
abbrev AdcPending (s : State) : Prop := s.adcFlag = true ∧ s.adcIe = true

/-- The timer-overflow source is pending and enabled (R262). -/
abbrev TovPending (s : State) : Prop := s.tovFlag = true ∧ s.tovIe = true

/-- One count of the hardware counter, as the pseudocode of R130 writes it. -/
def countOnce (s : State) : State :=
  if s.tbCnt = 0xFFFF then { s with tbCnt := 0, tovFlag := true }
  else { s with tbCnt := s.tbCnt + 1 }

/-- A reset event (R300). -/
def isReset : Instr → Bool
  | .evPor _ _ _ _ => true
  | .evWdtexp _ _ _ _ => true
  | .tbStart | .tbStop | .tbNow | .tbTicknum | .tbMswait _ | .tbTickwait => false
  | .tbRawstart _ | .tbRawended | .tbRawwait _ => false
  | .adcStart | .adcStop | .adcIsupdated _ | .adcCalbias _ | .adcReading _ | .adcAcccharge => false
  | .ocTripped | .ocPending | .ocClear | .ocArm => false
  | .lpTripped | .lpPending | .lpClear | .lpArm => false
  | .pwrOn | .pwrOff | .lrstAssert | .lrstRelease => false
  | .sysIrqen | .sysIrqdis | .sysSleep | .sysHalt | .wdtKick | .lampPoll => false
  | .evCount _ | .evAdcdone _ | .evOc _ | .evLp _ | .evLamp _ => false
  | .irqOc | .irqLp | .irqAdc | .irqTov | .fgStep _ => false

/-! What holds of every state of a run. -/

/-- The sum of a ring's entries (R40). -/
def ringSum (a : ChannelAcc) : Nat := (a.ring.toList.map BitVec.toNat).sum

/-- The memory is well formed: each running sum is the sum of its ring (R40), and each bias is in the
range of a sum (R38). -/
abbrev WindowInv (s : State) : Prop :=
  (s.chan0.sum.toNat = ringSum s.chan0 ∧ s.chan0.bias.toNat ≤ 16368) ∧
  (s.chan1.sum.toNat = ringSum s.chan1 ∧ s.chan1.bias.toNat ≤ 16368)

/-- Every register of open width holds a number of its width (R9, R33, R38, R39, R47), and the raw
window is a window of the clock (R34, R139). -/
abbrev WidthInv (s : State) : Prop :=
  s.tbOvf.toNat < 2 ^ s.cfg.ovfW ∧ s.ilkLastTick.toNat < 2 ^ s.cfg.ovfW ∧
  s.src.toNat < 2 ^ s.cfg.srcW ∧
  s.chan0.acc.toNat < 2 ^ s.cfg.accW ∧ s.chan1.acc.toNat < 2 ^ s.cfg.accW ∧
  s.ilkQ.toNat < 2 ^ s.cfg.accW ∧
  s.rawT0.toNat < s.cfg.msWrap ∧ s.rawDur.toNat < s.cfg.msWrap

/-- The enumerated registers hold values some step writes (R35, R47, R48, R260, U9). -/
abbrev EncodingInv (s : State) : Prop :=
  s.wKind.toNat ≤ 5 ∧ s.position.isSome = true ∧ s.ilkFc.toNat ≤ 10 ∧
  (s.ilkCadence = 32 ∨ s.ilkCadence = 1)

/-- In the terminal halt interrupts are off, nothing sleeps, the position is SD.2 and a condition is
named (R272). -/
abbrev HaltInv (s : State) : Prop :=
  s.ilkHalted = true →
    s.gie = false ∧ s.sleeping = false ∧ s.ilkState = 5 ∧ s.ilkPhase = 2 ∧ s.ilkFc ≠ 0

/-- A sleeping block can be woken: interrupts are on, no wait is in progress, it is not halted (R216,
D35). -/
abbrev SleepInv (s : State) : Prop :=
  s.sleeping = true → s.gie = true ∧ s.wKind = 0 ∧ s.ilkHalted = false

/-- With the strap set the sequencer stays at PD.0 and notes no condition until a halt (R48). -/
abbrev MasterInv (s : State) : Prop :=
  s.seqHold = true → s.ilkHalted = false → s.ilkState = 0 ∧ s.ilkPhase = 0 ∧ s.ilkFc = 0

/-- Power is off in every halted state but a test master's own halt, FC10 (R239 c); under the
sequencer it is off before `ApplyingPower` (R239 d) and at the positions after the power was cut. -/
abbrev PowerInv (s : State) : Prop :=
  (s.ilkHalted = true → s.seqHold = false ∨ s.ilkFc ≠ 10 → s.pwrEn = false) ∧
  (s.seqHold = false → s.ilkHalted = false →
    (s.ilkState.toNat ≤ 1 ∨ s.position = some .ap6 ∨ s.position = some .ap7 ∨
      s.position = some .sd2) → s.pwrEn = false)

/-- Under the sequencer the over-current detector is armed only from CL.0 on, the low-power detector
and the overflow interrupt only in `SteadyState` or later, the lamp leaves reset only there, and the
voltage channel is never calibrated (R200, R234, R235, R236, R237). -/
abbrev ArmInv (s : State) : Prop :=
  s.seqHold = false →
    (s.ocIe = true → 3 ≤ s.ilkState.toNat) ∧
    (s.lpIe = true → 4 ≤ s.ilkState.toNat) ∧
    (s.tovIe = true ∨ s.wKind = 1 → 4 ≤ s.ilkState.toNat) ∧
    (s.lampRst = false → 4 ≤ s.ilkState.toNat) ∧
    s.chan1.bias = 0

end Sys2Proof.Machine
end

