-- ==== Sys2Proof/Certificates/Slice0/Obligations.lean ====
section
/-! DEFINITION. The statements for the provers, from the numbered rules of spec/. -/

open Sys2Proof Sys2Proof.Machine

/-! Time base (40_timebase). -/

/-- R132, R133. `TB.START` clears the flag and the enable and waits; its poll completes at the first
wrap of the counter, and holds before; `TB.STOP` clears the enable and nothing else. -/
def Obligations.TimeBaseStartsAtATickBoundaryAndStops : Prop :=
  OperationEffect .tbStart (fun s => { s with
    tovIe := false, tovFlag := false, wKind := 1, wdtKick := true, lampPollReq := false }) ∧
  (∀ s : State, Awake s → s.wKind = 1 → s.tovFlag = true →
    exec (.fgStep 1) s = .next { s with
      tbOvf := 0, tovFlag := false, tovIe := true, wKind := 0, wdtKick := true, lampPollReq := false }) ∧
  (∀ s : State, Awake s → s.wKind = 1 → s.tovFlag = false →
    exec (.fgStep 1) s = .next { s with wdtKick := true, lampPollReq := false }) ∧
  OperationEffect .tbStop (fun s => { s with
    tovIe := false, wdtKick := true, lampPollReq := false })

/-- R135, R136 (with the formula of R134). `TB.NOW` returns the scaled count, corrected for a pending
overflow below the boundary; `TB.TICKNUM` returns the raw overflow counter. -/
def Obligations.ClockReadsReturnTheScaledAndTheRawCount : Prop :=
  OperationEffect .tbNow (fun s => { s with
    res := BitVec.ofNat 32
      (((if s.tovFlag = true ∧ s.tbCnt.toNat < s.cfg.tbCorrBound then
          (s.tbOvf.toNat + 1) % 2 ^ s.cfg.ovfW else s.tbOvf.toNat) * 65536 + s.tbCnt.toNat)
        * s.cfg.tbMsMul / 2 ^ s.cfg.tbMsShift),
    wdtKick := true, lampPollReq := false }) ∧
  OperationEffect .tbTicknum (fun s => { s with
    res := s.tbOvf, wdtKick := true, lampPollReq := false })

/-- R137. `TB.MSWAIT d`: the issue in its three forms and the refusal by value, and the two polls. -/
def Obligations.MsWaitIssuesAndPollsTheClock : Prop :=
  (∀ (d : BitVec 32) (s : State), ¬ForegroundFree s → ∃ r, exec (.tbMswait d) s = .refused r) ∧
  (∀ (d : BitVec 32) (s : State), ForegroundFree s →
    (s.cfg.msWrap ≤ d.toNat → exec (.tbMswait d) s = .refused .durationOutOfDomain) ∧
    (d = 0 → exec (.tbMswait d) s = .next { s with
      wKind := 0, wdtKick := true, lampPollReq := false }) ∧
    (d ≠ 0 → d.toNat < s.cfg.msWrap → d.toNat < s.cfg.msWrap - nowValue s →
      exec (.tbMswait d) s = .next { s with
        wT0 := BitVec.ofNat 32 (nowValue s), wTarget := BitVec.ofNat 32 (nowValue s + d.toNat),
        wKind := 2, wdtKick := true, lampPollReq := false }) ∧
    (d ≠ 0 → d.toNat < s.cfg.msWrap → s.cfg.msWrap - nowValue s ≤ d.toNat →
      exec (.tbMswait d) s = .next { s with
        wT0 := BitVec.ofNat 32 (nowValue s),
        wRem := BitVec.ofNat 32 (d.toNat - (s.cfg.msWrap - nowValue s)),
        wKind := 3, wdtKick := true, lampPollReq := false })) ∧
  (∀ s : State, Awake s → s.wKind = 2 →
    (s.wTarget.toNat ≤ nowValue s ∨ nowValue s < s.wT0.toNat →
      exec (.fgStep 1) s = .next { s with wKind := 0, wdtKick := true, lampPollReq := false }) ∧
    (nowValue s < s.wTarget.toNat ∧ s.wT0.toNat ≤ nowValue s →
      exec (.fgStep 1) s = .next { s with wdtKick := true, lampPollReq := false })) ∧
  (∀ s : State, Awake s → s.wKind = 3 →
    (s.wT0.toNat ≤ nowValue s →
      exec (.fgStep 1) s = .next { s with wdtKick := true, lampPollReq := false }) ∧
    (nowValue s < s.wT0.toNat → s.wRem = 0 →
      exec (.fgStep 1) s = .next { s with wKind := 0, wdtKick := true, lampPollReq := false }) ∧
    (nowValue s < s.wT0.toNat → s.wRem ≠ 0 → s.wRem.toNat < s.cfg.msWrap - nowValue s →
      exec (.fgStep 1) s = .next { s with
        wT0 := BitVec.ofNat 32 (nowValue s), wTarget := BitVec.ofNat 32 (nowValue s + s.wRem.toNat),
        wKind := 2, wdtKick := true, lampPollReq := false }) ∧
    (nowValue s < s.wT0.toNat → s.wRem ≠ 0 → s.cfg.msWrap - nowValue s ≤ s.wRem.toNat →
      exec (.fgStep 1) s = .next { s with
        wT0 := BitVec.ofNat 32 (nowValue s),
        wRem := BitVec.ofNat 32 (s.wRem.toNat - (s.cfg.msWrap - nowValue s)),
        wKind := 3, wdtKick := true, lampPollReq := false }))

/-- R138. `TB.TICKWAIT` notes the tick number; its poll ends when the tick number differs. -/
def Obligations.TickWaitEndsWhenTheTickNumberChanges : Prop :=
  OperationEffect .tbTickwait (fun s => { s with
    wT0 := s.tbOvf, wKind := 4, wdtKick := true, lampPollReq := false }) ∧
  (∀ s : State, Awake s → s.wKind = 4 →
    (s.tbOvf ≠ s.wT0 →
      exec (.fgStep 1) s = .next { s with wKind := 0, wdtKick := true, lampPollReq := false }) ∧
    (s.tbOvf = s.wT0 →
      exec (.fgStep 1) s = .next { s with wdtKick := true, lampPollReq := false }))

/-- R139, R140, R141. The raw window: every raw-mode step first services a pending overflow; the
window is opened at the clock then read, and has ended when its age reaches its length. -/
def Obligations.RawWindowServicesTheOverflowAndMeasures : Prop :=
  (∀ (d : BitVec 32) (s : State), ¬ForegroundFree s →
    (∃ r, exec (.tbRawstart d) s = .refused r) ∧ (∃ r, exec (.tbRawwait d) s = .refused r)) ∧
  (∀ (d : BitVec 32) (s : State), ForegroundFree s → s.cfg.msWrap ≤ d.toNat →
    exec (.tbRawstart d) s = .refused .durationOutOfDomain ∧
    exec (.tbRawwait d) s = .refused .durationOutOfDomain) ∧
  (∀ (d : BitVec 32) (s : State), ForegroundFree s → d.toNat < s.cfg.msWrap →
    exec (.tbRawstart d) s = .next { overflowServiced s with
      rawT0 := BitVec.ofNat 32 (nowValue (overflowServiced s)), rawDur := d,
      wdtKick := true, lampPollReq := false } ∧
    exec (.tbRawwait d) s = .next { overflowServiced s with
      rawT0 := BitVec.ofNat 32 (nowValue (overflowServiced s)), rawDur := d, wKind := 5,
      wdtKick := true, lampPollReq := false }) ∧
  OperationEffect .tbRawended (fun s => { overflowServiced s with
    res := if s.rawDur.toNat ≤ windowAge (overflowServiced s) then 1 else 0,
    wdtKick := true, lampPollReq := false }) ∧
  (∀ s : State, Awake s → s.wKind = 5 →
    exec (.fgStep 1) s = .next { overflowServiced s with
      wKind := if s.rawDur.toNat ≤ windowAge (overflowServiced s) then 0 else 5,
      wdtKick := true, lampPollReq := false })

/-- R130. `EV.COUNT n` is `n` single counts, enabled in every state; a count of 0 is refused. -/
def Obligations.CountingIsRepeatedSingleCounts : Prop :=
  (∀ (n : BitVec 32) (s : State), n ≠ 0 →
    exec (.evCount n) s =
      .next (countOnce^[n.toNat] { s with wdtKick := false, lampPollReq := false })) ∧
  (∀ s : State, exec (.evCount 0) s = .refused .repeatCountZero)

/-- R131. `IRQ.TOV` moves the pending overflow into the overflow counter, modulo its width, and wakes
the foreground; it is refused unless it is enabled (R266). -/
def Obligations.OverflowHandlerCountsTheTick : Prop :=
  ∀ s : State,
    (Interruptible s → TovPending s → ¬OcPending s → ¬LpPending s → ¬AdcPending s →
      exec .irqTov s = .next { s with
        tovFlag := false, tbOvf := BitVec.ofNat 32 ((s.tbOvf.toNat + 1) % 2 ^ s.cfg.ovfW),
        sleeping := false, wdtKick := false, lampPollReq := false }) ∧
    (¬(Interruptible s ∧ TovPending s ∧ ¬OcPending s ∧ ¬LpPending s ∧ ¬AdcPending s) →
      exec .irqTov s = .refused .interruptNotTakeable)

/-! ADC engine (41_adc). -/

/-- R162, R163. `ADC.START` selects channel 0, clears the flag and enables; `ADC.STOP` disables and
leaves no completion pending. Neither touches the averages. -/
def Obligations.ConverterStartsAtChannelZeroAndStopsClean : Prop :=
  OperationEffect .adcStart (fun s => { s with
    adcFlag := false, adcMux := .ch0, adcIe := true, adcEn := true,
    wdtKick := true, lampPollReq := false }) ∧
  OperationEffect .adcStop (fun s => { s with
    adcEn := false, adcIe := false, adcFlag := false, wdtKick := true, lampPollReq := false })

/-- R166. `ADC.ISUPDATED` is all or nothing: it consumes `2 * rounds` and answers 1, or answers 0 and
leaves the counter. -/
def Obligations.IsUpdatedIsAllOrNothing : Prop :=
  ∀ rounds : BitVec 8,
    OperationEffect (.adcIsupdated rounds) (fun s => { s with
      src := if 2 * rounds.toNat ≤ s.src.toNat then BitVec.ofNat 32 (s.src.toNat - 2 * rounds.toNat)
        else s.src,
      res := if 2 * rounds.toNat ≤ s.src.toNat then 1 else 0,
      wdtKick := true, lampPollReq := false })

/-- R167. `ADC.CALBIAS ch` copies the channel's sum to its bias and clears its accumulator and the
shared counter; the other channel is untouched. -/
def Obligations.CalibrationTakesTheRunningSum : Prop :=
  OperationEffect (.adcCalbias .ch0) (fun s => { s with
    chan0 := { s.chan0 with bias := s.chan0.sum, acc := 0 }, src := 0,
    wdtKick := true, lampPollReq := false }) ∧
  OperationEffect (.adcCalbias .ch1) (fun s => { s with
    chan1 := { s.chan1 with bias := s.chan1.sum, acc := 0 }, src := 0,
    wdtKick := true, lampPollReq := false })

/-- R165, R168, R169. `ADC.READING ch` returns the bias-corrected sum over 16, rounded, 0 where the bias
is not below the sum, and at most 1023 for a sum of sixteen samples; `ADC.ACCCHARGE` returns `acc[0]`. -/
def Obligations.ReadingsAreRoundedAndClamped : Prop :=
  OperationEffect (.adcReading .ch0) (fun s => { s with
    res := if s.chan0.sum.toNat ≤ s.chan0.bias.toNat then 0
      else BitVec.ofNat 32 ((s.chan0.sum.toNat - s.chan0.bias.toNat + 8) / 16),
    wdtKick := true, lampPollReq := false }) ∧
  OperationEffect (.adcReading .ch1) (fun s => { s with
    res := if s.chan1.sum.toNat ≤ s.chan1.bias.toNat then 0
      else BitVec.ofNat 32 ((s.chan1.sum.toNat - s.chan1.bias.toNat + 8) / 16),
    wdtKick := true, lampPollReq := false }) ∧
  (∀ (c : Channel) (s t : State), (s.chan c).sum.toNat ≤ 16368 →
    exec (.adcReading c) s = .next t → t.res.toNat ≤ 1023) ∧
  OperationEffect .adcAcccharge (fun s => { s with
    res := s.chan0.acc, wdtKick := true, lampPollReq := false })

/-- R160, R261. `EV.ADCDONE s` delivers the sample and sets the flag; an unserviced completion is the overrun
MF1; it is refused while the converter has no step. R160 itself says MF1 only: the last clause, that under
the treatment `hardware` the sample is overwritten as R261 decides for the hardware, is the model's choice
(log 10, unsafe under that treatment). -/
def Obligations.ConversionDeliversTheSampleOrOverruns : Prop :=
  ∀ (x : Sample) (s : State),
    (s.adcEn = false → exec (.evAdcdone x) s = .refused .converterIdle) ∧
    (s.adcEn = true → s.adcFlag = false → exec (.evAdcdone x) s = .next { s with
      adcData := x, adcFlag := true, wdtKick := false, lampPollReq := false }) ∧
    (s.adcEn = true → s.adcFlag = true → s.ilkHalted = true →
      exec (.evAdcdone x) s = .refused .converterIdle) ∧
    (s.adcEn = true → s.adcFlag = true → s.ilkHalted = false → s.cfg.onOverrun = .stop →
      exec (.evAdcdone x) s = .fault .conversionOverrun) ∧
    (s.adcEn = true → s.adcFlag = true → s.ilkHalted = false → s.cfg.onOverrun = .hardware →
      exec (.evAdcdone x) s = .next { s with
        adcData := x, adcFlag := true, wdtKick := false, lampPollReq := false })

/-- R161, R261. `IRQ.ADC`, the per-conversion algorithm: the window of the selected channel slides, the
rounded eighth of the bias-corrected sum goes into the accumulator (clamped at zero), the cursor and the
counter advance, the selector turns, the flag clears. Reaching the top of the accumulator is MF3 and
passing the top of the counter MF2, each a fault. That under the treatment `hardware` of `onAccTop` and
`onSrcTop` the step instead goes on with the value R261 decides for the hardware (R161: "or, adopting D8",
"or, adopting D9") is the model's choice (log 10, unsafe under that treatment). -/
def Obligations.ConversionHandlerRunsThePerConversionAlgorithm : Prop :=
  ∀ (s : State) (a : ChannelAcc) (sum : BitVec 16) (accTop srcTop : Prop) (acc : Nat),
    a = s.chan s.adcMux →
    sum = a.sum - (s.ringAt s.adcMux a.cur).setWidth 16 + s.adcData.setWidth 16 →
    (accTop ↔ a.bias.toNat ≤ sum.toNat ∧
      2 ^ s.cfg.accW - 1 ≤ a.acc.toNat + (sum.toNat - a.bias.toNat + 4) / 8) →
    (srcTop ↔ s.src.toNat = 2 ^ s.cfg.srcW - 1) →
    (accTop → acc = 2 ^ s.cfg.accW - 1) →
    (¬accTop → acc = if a.bias.toNat ≤ sum.toNat then a.acc.toNat + (sum.toNat - a.bias.toNat + 4) / 8
      else a.acc.toNat - (a.bias.toNat - sum.toNat + 4) / 8) →
    (Interruptible s → AdcPending s → ¬OcPending s → ¬LpPending s →
      ((accTop → s.cfg.onAccTop = .hardware) → (srcTop → s.cfg.onSrcTop = .hardware) →
        ∃ n : BitVec 32, (srcTop → n = 0) ∧ (¬srcTop → n = BitVec.ofNat 32 (s.src.toNat + 1)) ∧
          exec .irqAdc s = .next { s.setChan s.adcMux
              { a with ring := a.ring.set a.cur.toNat s.adcData a.cur.isLt, sum := sum, cur := a.cur + 1,
                       acc := BitVec.ofNat 32 acc } with
            src := n, adcMux := if s.adcMux = .ch0 then .ch1 else .ch0, adcFlag := false,
            sleeping := false, wdtKick := false, lampPollReq := false }) ∧
      (accTop → s.cfg.onAccTop = .stop → exec .irqAdc s = .fault .accumulatorTop) ∧
      ((accTop → s.cfg.onAccTop = .hardware) → srcTop → s.cfg.onSrcTop = .stop →
        exec .irqAdc s = .fault .sampleCounterTop)) ∧
    (¬(Interruptible s ∧ AdcPending s ∧ ¬OcPending s ∧ ¬LpPending s) →
      exec .irqAdc s = .refused .interruptNotTakeable)

/-- R81. The ring access: exactly the entry at the selected channel's cursor becomes the sample, every
other entry of both rings is unchanged, and that cursor advances modulo 16. -/
def Obligations.RingAccessIsChannelAndCursorWithPostIncrement : Prop :=
  ∀ s t : State, exec .irqAdc s = .next t →
    (∀ (c : Channel) (k : BitVec 4), t.ringAt c k =
      if c = s.adcMux ∧ k = (s.chan c).cur then s.adcData else s.ringAt c k) ∧
    (t.chan s.adcMux).cur.toNat = ((s.chan s.adcMux).cur.toNat + 1) % 16 ∧
    (∀ c : Channel, c ≠ s.adcMux → t.chan c = s.chan c)

/-! Detectors (42_detectors). -/

/-- R192, R193, R196, R197. The four reads return the level or the latch and change no state but `RES`. -/
def Obligations.DetectorReadsReturnLevelAndLatch : Prop :=
  OperationEffect .ocTripped (fun s => { s with
    res := if s.ocLevel = true then 1 else 0, wdtKick := true, lampPollReq := false }) ∧
  OperationEffect .ocPending (fun s => { s with
    res := if s.ocPend = true then 1 else 0, wdtKick := true, lampPollReq := false }) ∧
  OperationEffect .lpTripped (fun s => { s with
    res := if s.lpLevel = true then 1 else 0, wdtKick := true, lampPollReq := false }) ∧
  OperationEffect .lpPending (fun s => { s with
    res := if s.lpPend = true then 1 else 0, wdtKick := true, lampPollReq := false })

/-- R194, R195, R198, R199. Clearing clears the latch; arming clears the latch and sets the enable in one
step. -/
def Obligations.ClearAndArmWriteTheLatch : Prop :=
  OperationEffect .ocClear (fun s => { s with ocPend := false, wdtKick := true, lampPollReq := false }) ∧
  OperationEffect .ocArm (fun s => { s with
    ocPend := false, ocIe := true, wdtKick := true, lampPollReq := false }) ∧
  OperationEffect .lpClear (fun s => { s with lpPend := false, wdtKick := true, lampPollReq := false }) ∧
  OperationEffect .lpArm (fun s => { s with
    lpPend := false, lpIe := true, wdtKick := true, lampPollReq := false })

/-- R190, R191. An input takes its level in every state; the 0-to-1 change is latched, and a fall leaves
the latch. -/
def Obligations.RisingEdgesAreLatched : Prop :=
  ∀ (l : Bool) (s : State),
    exec (.evOc l) s = .next { s with
      ocPend := if s.ocLevel = false ∧ l = true then true else s.ocPend, ocLevel := l,
      wdtKick := false, lampPollReq := false } ∧
    exec (.evLp l) s = .next { s with
      lpPend := if s.lpLevel = false ∧ l = true then true else s.lpPend, lpLevel := l,
      wdtKick := false, lampPollReq := false }

/-! Outputs and system operations (43_interlock sections 1 to 3). -/

/-- R210, R211. `PWR.ON` sets the power enable and `PWR.OFF` clears it; nothing but `PWR.ON`, issued by
the test master or by the sequencer at AP.0, ever sets it. -/
def Obligations.OnlyPowerOnSetsThePowerEnable : Prop :=
  OperationEffect .pwrOn (fun s => { s with pwrEn := true, wdtKick := true, lampPollReq := false }) ∧
  OperationEffect .pwrOff (fun s => { s with pwrEn := false, wdtKick := true, lampPollReq := false }) ∧
  (∀ (i : Instr) (s t : State), exec i s = .next t → s.pwrEn = false → t.pwrEn = true →
    i = .pwrOn ∨ (∃ n, i = .fgStep n)) ∧
  (∀ s t : State, exec (.fgStep 1) s = .next t → s.pwrEn = false → t.pwrEn = true →
    SequencerAt .ap0 s)

/-- R212, R213, R214, R215. The lamp-reset line and the global interrupt enable are written and nothing
else changes. -/
def Obligations.LampResetAndInterruptEnableAreWritten : Prop :=
  OperationEffect .lrstAssert (fun s => { s with lampRst := true, wdtKick := true, lampPollReq := false }) ∧
  OperationEffect .lrstRelease (fun s => { s with lampRst := false, wdtKick := true, lampPollReq := false }) ∧
  OperationEffect .sysIrqen (fun s => { s with gie := true, wdtKick := true, lampPollReq := false }) ∧
  OperationEffect .sysIrqdis (fun s => { s with gie := false, wdtKick := true, lampPollReq := false })

/-- R216. `SYS.SLEEP` is refused with interrupts disabled; it sleeps exactly when no interrupt is pending
and enabled. -/
def Obligations.SleepOnlyWhenNothingIsPending : Prop :=
  ∀ s : State,
    (¬ForegroundFree s → ∃ r, exec .sysSleep s = .refused r) ∧
    (ForegroundFree s → s.gie = false → exec .sysSleep s = .refused .sleepWithInterruptsOff) ∧
    (ForegroundFree s → s.gie = true → (TovPending s ∨ AdcPending s ∨ OcPending s ∨ LpPending s) →
      exec .sysSleep s = .next { s with wdtKick := true, lampPollReq := false }) ∧
    (ForegroundFree s → s.gie = true → ¬(TovPending s ∨ AdcPending s ∨ OcPending s ∨ LpPending s) →
      exec .sysSleep s = .next { s with sleeping := true, wdtKick := true, lampPollReq := false })

/-- R217. `SYS.HALT` halts on the recorded condition, or on FC10 when none is recorded; it touches no
output and gives no `wdt_kick` pulse. -/
def Obligations.HaltRecordsTheConditionAndStopsTheForeground : Prop :=
  ∀ s : State,
    (¬ForegroundFree s → ∃ r, exec .sysHalt s = .refused r) ∧
    (ForegroundFree s → exec .sysHalt s = .next { s with
      ilkFc := if s.ilkFc = 0 then 10 else s.ilkFc, ilkState := 5, ilkPhase := 2, ilkHalted := true,
      gie := false, sleeping := false, wdtKick := false, lampPollReq := false })

/-- R218, R222, R223. `WDT.KICK` changes no register; `LAMP.POLL` pulses its request and returns the
driver's answer, which stays; `EV.LAMP` sets the answer in every state. -/
def Obligations.KickAndLampInterface : Prop :=
  OperationEffect .wdtKick (fun s => { s with wdtKick := true, lampPollReq := false }) ∧
  OperationEffect .lampPoll (fun s => { s with
    res := if s.lampChanged = true then 1 else 0, wdtKick := true, lampPollReq := true }) ∧
  (∀ (l : Bool) (s : State), exec (.evLamp l) s = .next { s with
    lampChanged := l, wdtKick := false, lampPollReq := false })

/-! Interrupts (60_exceptions). -/

/-- R268, R269. The escape hatches: over-current cuts power and halts with FC8, leaving the lamp reset as
it was; low-power cuts power, holds the lamp in reset and halts with FC9. Neither latch is cleared; each
is refused when it is not enabled, and in a sequencer run before its detector is armed. -/
def Obligations.EscapeHatchesCutPowerAndHalt : Prop :=
  ∀ s : State,
    (Interruptible s → OcPending s → exec .irqOc s = .next { s with
      pwrEn := false, ilkFc := 8, ilkState := 5, ilkPhase := 2, ilkHalted := true, gie := false,
      sleeping := false, wdtKick := false, lampPollReq := false }) ∧
    (¬(Interruptible s ∧ OcPending s) → exec .irqOc s = .refused .interruptNotTakeable) ∧
    (Interruptible s → LpPending s → ¬OcPending s → exec .irqLp s = .next { s with
      pwrEn := false, lampRst := true, ilkFc := 9, ilkState := 5, ilkPhase := 2, ilkHalted := true,
      gie := false, sleeping := false, wdtKick := false, lampPollReq := false }) ∧
    (¬(Interruptible s ∧ LpPending s ∧ ¬OcPending s) → exec .irqLp s = .refused .interruptNotTakeable) ∧
    (ArmInv s → s.seqHold = false → s.ilkState.toNat < 3 →
      exec .irqOc s = .refused .interruptNotTakeable) ∧
    (ArmInv s → s.seqHold = false → s.ilkState.toNat < 4 →
      exec .irqLp s = .refused .interruptNotTakeable)

/-- R265, R266. Of the four interrupt words at most one is enabled, and one is whenever interrupts are on,
the block is not halted and some source is pending and enabled. -/
def Obligations.ExactlyOneInterruptIsTakeable : Prop :=
  (∀ (i j : Instr) (s : State),
    i ∈ [Instr.irqOc, .irqLp, .irqAdc, .irqTov] → j ∈ [Instr.irqOc, .irqLp, .irqAdc, .irqTov] →
    (∀ r, exec i s ≠ .refused r) → (∀ r, exec j s ≠ .refused r) → i = j) ∧
  (∀ s : State, Interruptible s → (TovPending s ∨ AdcPending s ∨ OcPending s ∨ LpPending s) →
    ∃ i ∈ [Instr.irqOc, .irqLp, .irqAdc, .irqTov], ∀ r, exec i s ≠ .refused r)

/-! Reset (70_reset_and_hazards). -/

/-- R300, R54. Both reset events give every register its value of the reset table, record the cause and
take the strap, the levels and the counter from the word; `EV.POR` in every state, `EV.WDTEXP` exactly
when the block is halted. -/
def Obligations.ResetEventsGiveTheResetTable : Prop :=
  ∀ (hold oc lp : Bool) (cnt : BitVec 16) (s por : State),
    por = { res := 0, opErr := false, tbCnt := cnt, tovFlag := false, tovIe := false, tbOvf := 0,
            rawT0 := 0, rawDur := 0, wKind := 0, wT0 := 0, wTarget := 0, wRem := 0,
            adcEn := false, adcIe := false, adcFlag := false, adcMux := .ch0, adcData := 0,
            chan0 := { ring := Vector.replicate 16 0, sum := 0, cur := 0, bias := 0, acc := 0 },
            chan1 := { ring := Vector.replicate 16 0, sum := 0, cur := 0, bias := 0, acc := 0 },
            src := 0, ocLevel := oc, ocPend := false, ocIe := false, lpLevel := lp, lpPend := false,
            lpIe := false, gie := false, sleeping := false, ilkHalted := false, rstCauseWdt := false,
            ilkState := 0, ilkPhase := 0, ilkCadence := 32, ilkLastTick := 0, ilkLastChange := 0,
            ilkQ := 0, ilkI := 0, ilkV := 0, ilkFc := 0, lampChanged := false, pwrEn := false,
            lampRst := true, seqHold := hold, wdtKick := false, lampPollReq := false,
            cfg := s.cfg, trace := s.trace } →
    exec (.evPor hold oc lp cnt) s = .next por ∧
    (s.ilkHalted = true → exec (.evWdtexp hold oc lp cnt) s = .next { por with rstCauseWdt := true }) ∧
    (s.ilkHalted = false → exec (.evWdtexp hold oc lp cnt) s = .refused .watchdogFed)

/-- The model's choice (logs 2 to 8): `State.reset` is the state after a power-on reset with the strap, the
levels and the counter at 0, under REF, with no word offered; and it satisfies every invariant below. -/
def Obligations.ResetStateIsAPowerOnResetAndMeetsTheInvariants : Prop :=
  exec (.evPor false false false 0) State.reset = .next State.reset ∧
  State.reset.cfg.valid = true ∧ WindowInv State.reset ∧ WidthInv State.reset ∧
  EncodingInv State.reset ∧ HaltInv State.reset ∧ SleepInv State.reset ∧ MasterInv State.reset ∧
  PowerInv State.reset ∧ ArmInv State.reset

/-- R276, R233. The watchdog cycle: from every halted block a watchdog reset with the strap at 0 followed
by one foreground step halts again with FC1, power off and the lamp in reset, without a kick. -/
def Obligations.WatchdogResetHaltsAgainWithPowerOff : Prop :=
  ∀ (oc lp : Bool) (cnt : BitVec 16) (s : State), s.ilkHalted = true →
    ∃ t, execAll [.evWdtexp false oc lp cnt, .fgStep 1] s = .next t ∧
      t.ilkHalted = true ∧ t.ilkFc = 1 ∧ t.ilkState = 5 ∧ t.ilkPhase = 2 ∧ t.pwrEn = false ∧
      t.lampRst = true ∧ t.gie = false ∧ t.wdtKick = false ∧ t.rstCauseWdt = true ∧ t.tbCnt = cnt

/-! The sequencer (43_interlock section 5): the micro-step table R232, state by state. -/

/-- R232, R233. PD.0: a watchdog cause halts at once with FC1 and no kick; else the boot begins. -/
def Obligations.PoweredDownDecidesByTheResetCause : Prop :=
  ∀ s : State, SequencerAt .pd0 s →
    (s.rstCauseWdt = true → exec (.fgStep 1) s = .next { s with
      ilkFc := 1, ilkState := 5, ilkPhase := 2, ilkHalted := true, gie := false, sleeping := false,
      wdtKick := false, lampPollReq := false }) ∧
    (s.rstCauseWdt = false → exec (.fgStep 1) s = .next (movedTo 1 0 s))

/-- R232, R234. `CalibratingBias`: the raw settle wait, interrupts on, the converter started, the rounds
waited for, the current channel calibrated, and the over-current level tested before power is applied. -/
def Obligations.CalibratingBiasFollowsTheTable : Prop :=
  ∀ s : State,
    (SequencerAt .cb0 s → s.cfg.ilkPrecalSettleMs.toNat < s.cfg.msWrap →
      exec (.fgStep 1) s = .next { movedTo 1 1 (overflowServiced s) with
        rawT0 := BitVec.ofNat 32 (nowValue (overflowServiced s)), rawDur := s.cfg.ilkPrecalSettleMs,
        wKind := 5 }) ∧
    (SequencerAt .cb1 s → exec (.fgStep 1) s = .next { movedTo 1 2 s with gie := true }) ∧
    (SequencerAt .cb2 s → exec (.fgStep 1) s = .next { movedTo 1 3 s with
      adcFlag := false, adcMux := .ch0, adcIe := true, adcEn := true }) ∧
    (SequencerAt .cb3 s → 2 * s.cfg.ilkCalRounds.toNat ≤ s.src.toNat →
      exec (.fgStep 1) s = .next { movedTo 1 4 s with
        src := BitVec.ofNat 32 (s.src.toNat - 2 * s.cfg.ilkCalRounds.toNat), res := 1 }) ∧
    (SequencerAt .cb3 s → s.src.toNat < 2 * s.cfg.ilkCalRounds.toNat →
      exec (.fgStep 1) s = .next { movedTo 1 3 s with res := 0 }) ∧
    (SequencerAt .cb4 s → exec (.fgStep 1) s = .next { movedTo 1 5 s with
      chan0 := { s.chan0 with bias := s.chan0.sum, acc := 0 }, src := 0 }) ∧
    (SequencerAt .cb5 s → s.ocLevel = true → exec (.fgStep 1) s = .next { movedTo 5 2 s with
      res := 1, ilkFc := 2, ilkHalted := true, gie := false, sleeping := false }) ∧
    (SequencerAt .cb5 s → s.ocLevel = false →
      exec (.fgStep 1) s = .next { movedTo 2 0 s with res := 0 })

/-- R232, R235. `ApplyingPower`: power on, the 256 ms window polled for over-current, then the arming; on a
trip power off, lamp reset, halt with FC3. -/
def Obligations.ApplyingPowerFollowsTheTable : Prop :=
  ∀ s : State,
    (SequencerAt .ap0 s → exec (.fgStep 1) s = .next { movedTo 2 1 s with pwrEn := true }) ∧
    (SequencerAt .ap1 s → 256 < s.cfg.msWrap →
      exec (.fgStep 1) s = .next { movedTo 2 2 (overflowServiced s) with
        rawT0 := BitVec.ofNat 32 (nowValue (overflowServiced s)), rawDur := 256 }) ∧
    (SequencerAt .ap2 s → s.ocLevel = true →
      exec (.fgStep 1) s = .next { movedTo 2 5 s with res := 1, ilkFc := 3 }) ∧
    (SequencerAt .ap2 s → s.ocLevel = false →
      exec (.fgStep 1) s = .next { movedTo 2 3 s with res := 0 }) ∧
    (SequencerAt .ap3 s → s.rawDur.toNat ≤ windowAge (overflowServiced s) →
      exec (.fgStep 1) s = .next { movedTo 2 4 (overflowServiced s) with res := 1 }) ∧
    (SequencerAt .ap3 s → windowAge (overflowServiced s) < s.rawDur.toNat →
      exec (.fgStep 1) s = .next { movedTo 2 2 (overflowServiced s) with res := 0 }) ∧
    (SequencerAt .ap4 s →
      exec (.fgStep 1) s = .next { movedTo 3 0 s with ocPend := false, ocIe := true }) ∧
    (SequencerAt .ap5 s → exec (.fgStep 1) s = .next { movedTo 2 6 s with pwrEn := false }) ∧
    (SequencerAt .ap6 s → exec (.fgStep 1) s = .next { movedTo 2 7 s with lampRst := true }) ∧
    (SequencerAt .ap7 s → exec (.fgStep 1) s = .next { movedTo 5 2 s with
      ilkFc := if s.ilkFc = 0 then 10 else s.ilkFc, ilkHalted := true, gie := false, sleeping := false, wdtKick := false })

/-- R236 (CL.0 and CL.1 of R232). `ConfirmingLowPower`: the level is read once; tripped, the controlled
shutdown begins with FC4; else the low-power detector is armed. -/
def Obligations.ConfirmingLowPowerIsAOneShotCheck : Prop :=
  ∀ s : State,
    (SequencerAt .cl0 s → s.lpLevel = true →
      exec (.fgStep 1) s = .next { movedTo 5 0 s with res := 1, ilkFc := 4 }) ∧
    (SequencerAt .cl0 s → s.lpLevel = false →
      exec (.fgStep 1) s = .next { movedTo 3 1 s with res := 0 }) ∧
    (SequencerAt .cl1 s →
      exec (.fgStep 1) s = .next { movedTo 4 0 s with lpPend := false, lpIe := true })

/-- R232, R237. `SteadyState`, entry and loop: release the lamp, start the time base, note tick and time;
then sleep unless something is pending, and take the measurement or the tick branch. -/
def Obligations.SteadyStateLoopFollowsTheTable : Prop :=
  ∀ s : State,
    (SequencerAt .ss0 s → exec (.fgStep 1) s = .next { movedTo 4 1 s with lampRst := false }) ∧
    (SequencerAt .ss1 s → exec (.fgStep 1) s = .next { movedTo 4 2 s with
      tovIe := false, tovFlag := false, wKind := 1 }) ∧
    (SequencerAt .ss2 s → exec (.fgStep 1) s = .next { movedTo 4 3 s with
      res := s.tbOvf, ilkLastTick := BitVec.ofNat 32 (s.tbOvf.toNat % 2 ^ s.cfg.ovfW),
      ilkCadence := 32 }) ∧
    (SequencerAt .ss3 s → exec (.fgStep 1) s = .next { movedTo 4 4 s with
      res := BitVec.ofNat 32 (nowValue s), ilkLastChange := BitVec.ofNat 32 (nowValue s) }) ∧
    (SequencerAt .ss4 s → s.gie = true → (TovPending s ∨ AdcPending s ∨ OcPending s ∨ LpPending s) →
      exec (.fgStep 1) s = .next (movedTo 4 5 s)) ∧
    (SequencerAt .ss4 s → s.gie = true → ¬(TovPending s ∨ AdcPending s ∨ OcPending s ∨ LpPending s) →
      exec (.fgStep 1) s = .next { movedTo 4 5 s with sleeping := true }) ∧
    (SequencerAt .ss5 s → 2 * s.ilkCadence.toNat ≤ s.src.toNat →
      exec (.fgStep 1) s = .next { movedTo 4 6 s with
        src := BitVec.ofNat 32 (s.src.toNat - 2 * s.ilkCadence.toNat), res := 1 }) ∧
    (SequencerAt .ss5 s → s.src.toNat < 2 * s.ilkCadence.toNat →
      exec (.fgStep 1) s = .next { movedTo 4 10 s with res := 0 }) ∧
    (SequencerAt .ss10 s → BitVec.ofNat 32 (s.tbOvf.toNat % 2 ^ s.cfg.ovfW) ≠ s.ilkLastTick →
      exec (.fgStep 1) s = .next { movedTo 4 11 s with
        res := s.tbOvf, ilkLastTick := BitVec.ofNat 32 (s.tbOvf.toNat % 2 ^ s.cfg.ovfW) }) ∧
    (SequencerAt .ss10 s → BitVec.ofNat 32 (s.tbOvf.toNat % 2 ^ s.cfg.ovfW) = s.ilkLastTick →
      exec (.fgStep 1) s = .next { movedTo 4 4 s with res := s.tbOvf }) ∧
    (SequencerAt .ss11 s → s.lampChanged = true → exec (.fgStep 1) s = .next { movedTo 4 12 s with
      res := 1, ilkCadence := 1, lampPollReq := true }) ∧
    (SequencerAt .ss11 s → s.lampChanged = false → exec (.fgStep 1) s = .next { movedTo 4 4 s with
      res := 0, lampPollReq := true }) ∧
    (SequencerAt .ss12 s → exec (.fgStep 1) s = .next { movedTo 4 4 s with
      res := BitVec.ofNat 32 (nowValue s), ilkLastChange := BitVec.ofNat 32 (nowValue s) })

/-- R232, R225, R226. The measurement branch: the three reads, then the three inclusive thresholds in
order; charge and voltage lead to the controlled shutdown, current cuts the power in the same step, and
with no trip the cadence returns to 32. -/
def Obligations.MeasurementAppliesTheThreeThresholds : Prop :=
  ∀ s : State,
    (SequencerAt .ss6 s → exec (.fgStep 1) s = .next { movedTo 4 7 s with
      res := s.chan0.acc, ilkQ := BitVec.ofNat 32 (s.chan0.acc.toNat % 2 ^ s.cfg.accW) }) ∧
    (SequencerAt .ss7 s → ∀ v : Nat,
      (v = if s.chan0.sum.toNat ≤ s.chan0.bias.toNat then 0
        else (s.chan0.sum.toNat - s.chan0.bias.toNat + 8) / 16) →
      exec (.fgStep 1) s = .next { movedTo 4 8 s with
        res := BitVec.ofNat 32 v, ilkI := BitVec.ofNat 10 v }) ∧
    (SequencerAt .ss8 s → ∀ v : Nat,
      (v = if s.chan1.sum.toNat ≤ s.chan1.bias.toNat then 0
        else (s.chan1.sum.toNat - s.chan1.bias.toNat + 8) / 16) →
      exec (.fgStep 1) s = .next { movedTo 4 9 s with
        res := BitVec.ofNat 32 v, ilkV := BitVec.ofNat 10 v }) ∧
    (SequencerAt .ss9 s → s.cfg.ilkQCeil ≤ s.ilkQ.toNat →
      exec (.fgStep 1) s = .next { movedTo 5 0 s with ilkFc := 5 }) ∧
    (SequencerAt .ss9 s → s.ilkQ.toNat < s.cfg.ilkQCeil → s.cfg.ilkICeil ≤ s.ilkI.toNat →
      exec (.fgStep 1) s = .next { movedTo 5 2 s with ilkFc := 6, pwrEn := false }) ∧
    (SequencerAt .ss9 s → s.ilkQ.toNat < s.cfg.ilkQCeil → s.ilkI.toNat < s.cfg.ilkICeil →
      s.ilkV.toNat ≤ s.cfg.ilkVFloor →
      exec (.fgStep 1) s = .next { movedTo 5 0 s with ilkFc := 7 }) ∧
    (SequencerAt .ss9 s → s.ilkQ.toNat < s.cfg.ilkQCeil → s.ilkI.toNat < s.cfg.ilkICeil →
      s.cfg.ilkVFloor < s.ilkV.toNat →
      exec (.fgStep 1) s = .next { movedTo 4 4 s with ilkCadence := 32 })

/-- R232, R238. The controlled shutdown: from SD.0 three foreground steps hold the lamp in reset, remove
the power and halt, in that order, with the condition noted before. -/
def Obligations.ControlledShutdownHoldsLampRemovesPowerHalts : Prop :=
  ∀ s : State,
    (SequencerAt .sd0 s → exec (.fgStep 1) s = .next { movedTo 5 1 s with lampRst := true }) ∧
    (SequencerAt .sd1 s → exec (.fgStep 1) s = .next { movedTo 5 2 s with pwrEn := false }) ∧
    (SequencerAt .sd2 s →
      exec (.fgStep 1) s = .next { movedTo 5 2 s with
        ilkFc := if s.ilkFc = 0 then 10 else s.ilkFc, ilkHalted := true, gie := false, sleeping := false, wdtKick := false }) ∧
    (SequencerAt .sd0 s →
      exec (.fgStep 3) s = .next { movedTo 5 2 s with
        lampRst := true, pwrEn := false, ilkFc := if s.ilkFc = 0 then 10 else s.ilkFc, ilkHalted := true, gie := false, sleeping := false,
        wdtKick := false })

/-- R239 b. The threshold scenario: at SS.6 with the accumulated charge at or above the ceiling, seven
foreground steps end in the halt FC5 with power off and the lamp in reset. -/
def Obligations.ChargeAtTheCeilingShutsDown : Prop :=
  ∀ s : State, SequencerAt .ss6 s → s.chan0.acc.toNat < 2 ^ s.cfg.accW →
    s.cfg.ilkQCeil ≤ s.chan0.acc.toNat →
    ∃ t, exec (.fgStep 7) s = .next t ∧ t.ilkHalted = true ∧ t.ilkFc = 5 ∧ t.ilkState = 5 ∧
      t.ilkPhase = 2 ∧ t.pwrEn = false ∧ t.lampRst = true ∧ t.gie = false ∧ t.ilkQ = s.chan0.acc

/-- R221, R102. `FG.STEP` is repetition: `a + b` steps are `a` steps and then `b`, and the word is refused
at the first step that is not enabled; a count of 0 is refused. That `repeatCountZero` is the reason named
for it in every state, also where the word is not enabled, is the model's choice (log 15). -/
def Obligations.ForegroundStepsCompose : Prop :=
  (∀ (a b : BitVec 32) (s : State), a ≠ 0 → b ≠ 0 → a.toNat + b.toNat < 2 ^ 32 →
    exec (.fgStep (a + b)) s =
      match exec (.fgStep a) s with
      | .next t => exec (.fgStep b) t
      | .fault f => .fault f
      | .refused r => .refused r) ∧
  (∀ s : State, exec (.fgStep 0) s = .refused .repeatCountZero) ∧
  (∀ (n : BitVec 32) (s : State),
    (s.ilkHalted = true ∨ s.sleeping = true ∨ (s.wKind = 0 ∧ s.seqHold = true)) →
    ∃ r, exec (.fgStep n) s = .refused r)

/-- R231. One foreground step leaves the interlock's state, makes one of the listed changes, or halts. -/
def Obligations.StateChangesAreTheListedOnes : Prop :=
  ∀ s t : State, exec (.fgStep 1) s = .next t →
    t.ilkState = s.ilkState ∨
    (s.ilkState, t.ilkState) ∈
      [((0 : BitVec 3), (1 : BitVec 3)), (1, 2), (2, 3), (3, 4), (3, 5), (4, 5)] ∨
    (t.ilkHalted = true ∧ t.ilkState = 5)

/-- R45, R231. No step but a reset event writes a smaller interlock state. -/
def Obligations.OnlyAResetGoesBack : Prop :=
  ∀ (i : Instr) (s t : State), s.ilkState.toNat ≤ 5 → isReset i = false → exec i s = .next t →
    s.ilkState.toNat ≤ t.ilkState.toNat

/-! Whole-machine rules. -/

/-- R272. The terminal halt: in a halted block only counts, one more conversion, input changes and the
resets have a step, and all but the resets leave the halt, its condition and both outputs. -/
def Obligations.HaltIsTerminal : Prop :=
  ∀ (i : Instr) (s t : State), s.ilkHalted = true → exec i s = .next t →
    isReset i = true ∨
    (((∃ n, i = .evCount n) ∨ (∃ x, i = .evAdcdone x ∧ s.adcFlag = false) ∨ (∃ l, i = .evOc l) ∨
        (∃ l, i = .evLp l) ∨ (∃ l, i = .evLamp l)) ∧
      t.ilkHalted = true ∧ t.gie = s.gie ∧ t.sleeping = s.sleeping ∧ t.ilkState = s.ilkState ∧
      t.ilkPhase = s.ilkPhase ∧ t.ilkFc = s.ilkFc ∧ t.pwrEn = s.pwrEn ∧ t.lampRst = s.lampRst ∧
      t.tbOvf = s.tbOvf ∧ t.res = s.res)

/-- R264. An operation leaves the global interrupt enable as it found it, except the three whose purpose is
to change it. -/
def Obligations.OperationsLeaveTheInterruptEnable : Prop :=
  ∀ (i : Instr) (s t : State), isOperation i = true → i ≠ .sysIrqen → i ≠ .sysIrqdis → i ≠ .sysHalt →
    exec i s = .next t → t.gie = s.gie

/-- R37, R87. Only the conversion handler and a reset write the rings, the sums and the cursors. -/
def Obligations.OnlyTheHandlerWritesTheRings : Prop :=
  ∀ (i : Instr) (s t : State), i ≠ .irqAdc → isReset i = false → exec i s = .next t →
    ∀ c : Channel, (∀ k : BitVec 4, t.ringAt c k = s.ringAt c k) ∧
      (t.chan c).sum = (s.chan c).sum ∧ (t.chan c).cur = (s.chan c).cur

/-- R32, R41, R42, R44, R223. The counter, the two input levels and the lamp answer are written by their
event or by a reset only, the reset cause by a reset only. The other three clauses are the model's choices
and no rule's: that only a reset word changes the strap (log 6, unsafe: R49 and R302 make `seq_hold` an
input), and that nothing writes the field `cfg` (log 1) and no meaning the field `trace` (log 8). -/
def Obligations.InputsAreWrittenByTheirEventsOnly : Prop :=
  ∀ (i : Instr) (s t : State), exec i s = .next t →
    t.cfg = s.cfg ∧ t.trace = s.trace ∧
    (isReset i = false →
      ((∀ n, i ≠ .evCount n) → t.tbCnt = s.tbCnt) ∧
      ((∀ l, i ≠ .evOc l) → t.ocLevel = s.ocLevel) ∧
      ((∀ l, i ≠ .evLp l) → t.lpLevel = s.lpLevel) ∧
      ((∀ l, i ≠ .evLamp l) → t.lampChanged = s.lampChanged) ∧
      t.rstCauseWdt = s.rstCauseWdt ∧ t.seqHold = s.seqHold)

/-- R106, R107, R216. An operation word is refused exactly when the foreground is not free, its operand is
outside its domain, or it is a sleep with interrupts disabled; no operation faults. -/
def Obligations.OperationsAreRefusedExactlyWhenNotEnabled : Prop :=
  ∀ (i : Instr) (s : State), isOperation i = true →
    (∀ f, exec i s ≠ .fault f) ∧
    ((∃ r, exec i s = .refused r) ↔
      (¬ForegroundFree s ∨ i.wellFormed s.cfg = false ∨ (i = .sysSleep ∧ s.gie = false)))

/-- R143 a. Exactness of the clock: over a count that loses no tick, reads no flag above the boundary and
does not wrap the corrected overflow count, the combined count advances by exactly the counts made and
`now_value` does not decrease; and servicing a pending overflow below the boundary leaves it. -/
def Obligations.CombinedCountIsExactWhileServiced : Prop :=
  (∀ (n : BitVec 32) (s t : State), exec (.evCount n) s = .next t →
    s.tbOvf.toNat < 2 ^ s.cfg.ovfW → correctedOvf s + 1 < 2 ^ s.cfg.ovfW →
    s.tbCnt.toNat + n.toNat < 131072 →
    (s.tovFlag = true → s.tbCnt.toNat < s.cfg.tbCorrBound ∧ s.tbCnt.toNat + n.toNat < 65536) →
    (t.tovFlag = true → t.tbCnt.toNat < s.cfg.tbCorrBound) →
    combinedCount t = combinedCount s + n.toNat ∧ nowValue s ≤ nowValue t) ∧
  (∀ s t : State, (exec .irqTov s = .next t ∨ exec .tbRawended s = .next t) →
    s.cfg.ovfW ≤ 32 → (s.tovFlag = true → s.tbCnt.toNat < s.cfg.tbCorrBound) →
    combinedCount t = combinedCount s)

/-- R134. The clock lies below `TB_MS_WRAP`, so `TB.NOW` returns it whole, and it does not decrease as the
combined count increases. -/
def Obligations.ClockFitsAndIsMonotoneInTheCount : Prop :=
  (∀ s t : State, s.cfg.valid = true → s.tbOvf.toNat < 2 ^ s.cfg.ovfW → exec .tbNow s = .next t →
    t.res.toNat = nowValue s ∧ nowValue s < s.cfg.msWrap) ∧
  (∀ s t : State, s.cfg = t.cfg → combinedCount s ≤ combinedCount t → nowValue s ≤ nowValue t)

/-- R141, R108. `TB.RAWWAIT d` is `TB.RAWSTART d` followed by `TB.RAWENDED` repeated until it returns 1: the
issue is the start, and each poll does what `TB.RAWENDED` does and ends exactly when it returns 1, without
writing `RES`. -/
def Obligations.RawWaitIsRawStartAndRepeatedRawEnded : Prop :=
  (∀ (d : BitVec 32) (s t : State), exec (.tbRawstart d) s = .next t →
    exec (.tbRawwait d) s = .next { t with wKind := 5 }) ∧
  (∀ s : State, Awake s → s.wKind = 5 → s.seqHold = true →
    ∃ t u, exec (.fgStep 1) s = .next t ∧ exec .tbRawended { s with wKind := 0 } = .next u ∧
      t = { u with res := s.res, wKind := if u.res = 1 then 0 else 5 })

/-- R108. `ILK.SHUTDOWN` under a test master: lamp in reset, power off, halted, with FC10 when no condition
is recorded; `ILK.CUT` skips the lamp-reset step. -/
def Obligations.ShutdownAndCutSequencesHaltWithPowerOff : Prop :=
  ∀ s : State, ForegroundFree s →
    execAll (expandPseudo .ilkShutdown) s = .next { s with
      lampRst := true, pwrEn := false, ilkFc := if s.ilkFc = 0 then 10 else s.ilkFc, ilkState := 5, ilkPhase := 2, ilkHalted := true,
      gie := false, wdtKick := false, lampPollReq := false } ∧
    execAll (expandPseudo .ilkCut) s = .next { s with
      pwrEn := false, ilkFc := if s.ilkFc = 0 then 10 else s.ilkFc, ilkState := 5, ilkPhase := 2,
      ilkHalted := true, gie := false, wdtKick := false, lampPollReq := false }

/-! Encoding (30_encoding). -/

/-- R100 to R104. Decoding the encoding of any instruction gives it back, with every operand at every
value. -/
def Obligations.DecodeInvertsEncode : Prop := ∀ i : Instr, decode (encode i) = .ok i

/-- R100 to R104, R107. Every legal word is the encoding of the instruction it decodes to: no bit of a
word is dropped. -/
def Obligations.EncodeInvertsDecode : Prop :=
  ∀ (w : TraceWord) (i : Instr), decode w = .ok i → encode i = w

/-- R109, R107. A word decodes to an instruction of a row exactly when its masked bits are the row's
match, and is illegal exactly when no row matches. -/
def Obligations.DecodingFollowsMatchAndMask : Prop :=
  (∀ (w : TraceWord) (i : Instr),
    w &&& maskOf i = matchOf i ↔ ∃ j, decode w = .ok j ∧ matchOf j = matchOf i) ∧
  (∀ w : TraceWord, (∃ e, decode w = .error e) ↔ ∀ i : Instr, w &&& maskOf i ≠ matchOf i)

/-- Words of 95_test_vectors section 2.1 (E2, E4, E6, E13, E14, E16, E17, E19, E20, E23) and the
instructions they stand for. -/
def Obligations.WrittenOutWordsDecode : Prop :=
  decode 0x0400000000FA = .ok (.tbMswait 250) ∧
  decode 0x122000000000 = .ok (.adcIsupdated 32) ∧
  decode 0x140100000000 = .ok (.adcReading .ch1) ∧
  decode 0xE100000003FF = .ok (.evAdcdone 1023) ∧
  decode 0xE20100000000 = .ok (.evOc true) ∧
  decode 0xE60200000000 = .ok (.evPor false true false 0) ∧
  decode 0xE5050000FFFF = .ok (.evWdtexp true false true 65535) ∧
  decode 0xEC0000000003 = .ok (.fgStep 3) ∧
  decode 0x090000000000 = .error (.reservedOpcode 0x09) ∧
  decode 0x020000000001 = .error (.operandBits 0x02)

/-! The step. -/

/-- R106. A step takes the next word of the trace and executes the instruction it decodes to. -/
def Obligations.StepExecutesTheNextWord : Prop :=
  ∀ (s : State) (w : TraceWord) (rest : List TraceWord) (i : Instr),
    s.cfg.valid = true → s.trace = w :: rest → decode w = .ok i →
    step s = exec i { s with trace := rest }

/-- R107, R261, R7. An illegal word is refused; a configuration that fails R7 is refused. The rest is the
model's choice. Under the treatment `hardware` (log 11) an illegal word of any `op` counts as one on the
operation port, sets `op_err` on a port that is being sampled, changes no other register and pulses neither
output (unsafe in the pulse), and is refused on a port that is not sampled. With no word left the step
holds (log 8). The configuration's reason is named before any reason of the word (log 15). -/
def Obligations.StepRefusesIllegalWordsAndHoldsWithoutAWord : Prop :=
  (∀ (s : State) (w : TraceWord) (rest : List TraceWord) (e : Illegal),
    s.cfg.valid = true → s.trace = w :: rest → decode w = .error e →
    (s.cfg.onIllegal = .stop → step s = .refused .illegalWord) ∧
    (s.cfg.onIllegal = .hardware → ForegroundFree s → step s = .next { s with
      trace := rest, opErr := true, wdtKick := false, lampPollReq := false }) ∧
    (s.cfg.onIllegal = .hardware → ¬ForegroundFree s → ∃ r, step s = .refused r)) ∧
  (∀ s : State, s.cfg.valid = false → step s = .refused .badConfiguration) ∧
  (∀ s : State, s.cfg.valid = true → s.trace = [] →
    step s = .next { s with wdtKick := false, lampPollReq := false })

/-! Invariants that every step keeps, for every configuration and every trace. -/

/-- R40, R38. Every step keeps each running sum equal to the sum of its ring, and each bias a sum. -/
def Obligations.StepKeepsTheRunningSums : Prop :=
  ∀ s t : State, WindowInv s → step s = .next t → WindowInv t

/-- R9, R33, R38, R39, R47. Every step keeps every register of open width within its width and the raw
window within the clock. -/
def Obligations.StepKeepsTheWidths : Prop :=
  ∀ s t : State, WidthInv s → step s = .next t → WidthInv t

/-- R48, R35, R272, R216. Every step keeps the enumerated registers on values the spec lists, the terminal
halt as R272 describes it, and a sleeping block wakeable. -/
def Obligations.StepKeepsEncodingsHaltAndSleep : Prop :=
  ∀ s t : State, EncodingInv s ∧ HaltInv s ∧ SleepInv s → step s = .next t →
    EncodingInv t ∧ HaltInv t ∧ SleepInv t

/-- R239 c, d. Every step keeps power off in every halted state but a test master's own halt, and before
`ApplyingPower` under the sequencer. -/
def Obligations.StepKeepsThePowerRule : Prop :=
  ∀ s t : State, MasterInv s ∧ PowerInv s → step s = .next t → MasterInv t ∧ PowerInv t

/-- R200, R234, R236, R237. Every step keeps the arming order under the sequencer. -/
def Obligations.StepKeepsTheArmingOrder : Prop :=
  ∀ s t : State, ArmInv s → step s = .next t → ArmInv t

/-- R239 c, the headline: for every configuration, every trace and every reset word, in every state a run
reaches, a halted block has its power off, but for a test master's own halt. -/
def Obligations.EveryHaltedRunHasPowerOff : Prop :=
  ∀ (c : Config) (ws : List TraceWord) (wdt hold oc lp : Bool) (cnt : BitVec 16) (k : Nat) (t : State),
    Host.Core.run Sys2Proof.core k
      (State.resetTo { State.reset with cfg := c, trace := ws } wdt hold oc lp cnt) = .next t →
    t.ilkHalted = true → (t.seqHold = false ∨ t.ilkFc ≠ 10) → t.pwrEn = false

/-! The execution of a trace. -/

/-- R106, R13. Executing a trace is stepping through its words in order, and the answer says where it stops:
it completes exactly when every word has its step; it is refused at place `k` on word `w` for reason `r`
exactly when the words before have their steps and the step at `w` is refused for `r`, and the same of a
fault; the trace is well-formed exactly when no word is refused in its turn. Places from 0, the reasons
named, and that a trace which faults counts as well-formed are the model's choices (logs 15, 25). -/
def Obligations.ExecutingATraceNamesTheWordItStopsAt : Prop :=
  ∀ (ws : List TraceWord) (s : State),
    (∀ t : State, executeTrace ws s = .completed t ↔
      Host.Core.run Sys2Proof.core ws.length { s with trace := ws } = .next t) ∧
    (∀ (k : Nat) (w : TraceWord) (r : Refusal), executeTrace ws s = .refused k w r ↔
      ∃ (t : State) (rest : List TraceWord), ws.drop k = w :: rest ∧ t.trace = w :: rest ∧
        Host.Core.run Sys2Proof.core k { s with trace := ws } = .next t ∧ step t = .refused r) ∧
    (∀ (k : Nat) (w : TraceWord) (f : Fault), executeTrace ws s = .faulted k w f ↔
      ∃ (t : State) (rest : List TraceWord), ws.drop k = w :: rest ∧ t.trace = w :: rest ∧
        Host.Core.run Sys2Proof.core k { s with trace := ws } = .next t ∧ step t = .fault f) ∧
    (traceWellFormed ws s = true ↔ ∀ (k : Nat) (t : State) (r : Refusal), k < ws.length →
      Host.Core.run Sys2Proof.core k { s with trace := ws } = .next t → step t ≠ .refused r)
end

