-- ==== Sys2Proof/Laws/State.lean ====
section
/-! SUPPORT. The fields of the named updates of the state, one lemma per field per update, so that no later
proof unfolds a record update; and the Channel Accumulators behind `chan` and `setChan`. -/

namespace Sys2Proof.Machine

/-! Fields of `State.setRes`. -/

@[simp] theorem State.setRes_res (s : State) (v : BitVec 32) : (s.setRes v).res = v := rfl
@[simp] theorem State.setRes_opErr (s : State) (v : BitVec 32) : (s.setRes v).opErr = s.opErr := rfl
@[simp] theorem State.setRes_tbCnt (s : State) (v : BitVec 32) : (s.setRes v).tbCnt = s.tbCnt := rfl
@[simp] theorem State.setRes_tovFlag (s : State) (v : BitVec 32) : (s.setRes v).tovFlag = s.tovFlag := rfl
@[simp] theorem State.setRes_tovIe (s : State) (v : BitVec 32) : (s.setRes v).tovIe = s.tovIe := rfl
@[simp] theorem State.setRes_tbOvf (s : State) (v : BitVec 32) : (s.setRes v).tbOvf = s.tbOvf := rfl
@[simp] theorem State.setRes_rawT0 (s : State) (v : BitVec 32) : (s.setRes v).rawT0 = s.rawT0 := rfl
@[simp] theorem State.setRes_rawDur (s : State) (v : BitVec 32) : (s.setRes v).rawDur = s.rawDur := rfl
@[simp] theorem State.setRes_wKind (s : State) (v : BitVec 32) : (s.setRes v).wKind = s.wKind := rfl
@[simp] theorem State.setRes_wT0 (s : State) (v : BitVec 32) : (s.setRes v).wT0 = s.wT0 := rfl
@[simp] theorem State.setRes_wTarget (s : State) (v : BitVec 32) : (s.setRes v).wTarget = s.wTarget := rfl
@[simp] theorem State.setRes_wRem (s : State) (v : BitVec 32) : (s.setRes v).wRem = s.wRem := rfl
@[simp] theorem State.setRes_adcEn (s : State) (v : BitVec 32) : (s.setRes v).adcEn = s.adcEn := rfl
@[simp] theorem State.setRes_adcIe (s : State) (v : BitVec 32) : (s.setRes v).adcIe = s.adcIe := rfl
@[simp] theorem State.setRes_adcFlag (s : State) (v : BitVec 32) : (s.setRes v).adcFlag = s.adcFlag := rfl
@[simp] theorem State.setRes_adcMux (s : State) (v : BitVec 32) : (s.setRes v).adcMux = s.adcMux := rfl
@[simp] theorem State.setRes_adcData (s : State) (v : BitVec 32) : (s.setRes v).adcData = s.adcData := rfl
@[simp] theorem State.setRes_chan0 (s : State) (v : BitVec 32) : (s.setRes v).chan0 = s.chan0 := rfl
@[simp] theorem State.setRes_chan1 (s : State) (v : BitVec 32) : (s.setRes v).chan1 = s.chan1 := rfl
@[simp] theorem State.setRes_src (s : State) (v : BitVec 32) : (s.setRes v).src = s.src := rfl
@[simp] theorem State.setRes_ocLevel (s : State) (v : BitVec 32) : (s.setRes v).ocLevel = s.ocLevel := rfl
@[simp] theorem State.setRes_ocPend (s : State) (v : BitVec 32) : (s.setRes v).ocPend = s.ocPend := rfl
@[simp] theorem State.setRes_ocIe (s : State) (v : BitVec 32) : (s.setRes v).ocIe = s.ocIe := rfl
@[simp] theorem State.setRes_lpLevel (s : State) (v : BitVec 32) : (s.setRes v).lpLevel = s.lpLevel := rfl
@[simp] theorem State.setRes_lpPend (s : State) (v : BitVec 32) : (s.setRes v).lpPend = s.lpPend := rfl
@[simp] theorem State.setRes_lpIe (s : State) (v : BitVec 32) : (s.setRes v).lpIe = s.lpIe := rfl
@[simp] theorem State.setRes_gie (s : State) (v : BitVec 32) : (s.setRes v).gie = s.gie := rfl
@[simp] theorem State.setRes_sleeping (s : State) (v : BitVec 32) : (s.setRes v).sleeping = s.sleeping := rfl
@[simp] theorem State.setRes_ilkHalted (s : State) (v : BitVec 32) : (s.setRes v).ilkHalted = s.ilkHalted := rfl
@[simp] theorem State.setRes_rstCauseWdt (s : State) (v : BitVec 32) : (s.setRes v).rstCauseWdt = s.rstCauseWdt := rfl
@[simp] theorem State.setRes_ilkState (s : State) (v : BitVec 32) : (s.setRes v).ilkState = s.ilkState := rfl
@[simp] theorem State.setRes_ilkPhase (s : State) (v : BitVec 32) : (s.setRes v).ilkPhase = s.ilkPhase := rfl
@[simp] theorem State.setRes_ilkCadence (s : State) (v : BitVec 32) : (s.setRes v).ilkCadence = s.ilkCadence := rfl
@[simp] theorem State.setRes_ilkLastTick (s : State) (v : BitVec 32) : (s.setRes v).ilkLastTick = s.ilkLastTick := rfl
@[simp] theorem State.setRes_ilkLastChange (s : State) (v : BitVec 32) : (s.setRes v).ilkLastChange = s.ilkLastChange := rfl
@[simp] theorem State.setRes_ilkQ (s : State) (v : BitVec 32) : (s.setRes v).ilkQ = s.ilkQ := rfl
@[simp] theorem State.setRes_ilkI (s : State) (v : BitVec 32) : (s.setRes v).ilkI = s.ilkI := rfl
@[simp] theorem State.setRes_ilkV (s : State) (v : BitVec 32) : (s.setRes v).ilkV = s.ilkV := rfl
@[simp] theorem State.setRes_ilkFc (s : State) (v : BitVec 32) : (s.setRes v).ilkFc = s.ilkFc := rfl
@[simp] theorem State.setRes_lampChanged (s : State) (v : BitVec 32) : (s.setRes v).lampChanged = s.lampChanged := rfl
@[simp] theorem State.setRes_pwrEn (s : State) (v : BitVec 32) : (s.setRes v).pwrEn = s.pwrEn := rfl
@[simp] theorem State.setRes_lampRst (s : State) (v : BitVec 32) : (s.setRes v).lampRst = s.lampRst := rfl
@[simp] theorem State.setRes_seqHold (s : State) (v : BitVec 32) : (s.setRes v).seqHold = s.seqHold := rfl
@[simp] theorem State.setRes_wdtKick (s : State) (v : BitVec 32) : (s.setRes v).wdtKick = s.wdtKick := rfl
@[simp] theorem State.setRes_lampPollReq (s : State) (v : BitVec 32) : (s.setRes v).lampPollReq = s.lampPollReq := rfl
@[simp] theorem State.setRes_cfg (s : State) (v : BitVec 32) : (s.setRes v).cfg = s.cfg := rfl
@[simp] theorem State.setRes_trace (s : State) (v : BitVec 32) : (s.setRes v).trace = s.trace := rfl

/-! Fields of `State.quiet`. -/

@[simp] theorem State.quiet_res (s : State) : (s.quiet).res = s.res := rfl
@[simp] theorem State.quiet_opErr (s : State) : (s.quiet).opErr = s.opErr := rfl
@[simp] theorem State.quiet_tbCnt (s : State) : (s.quiet).tbCnt = s.tbCnt := rfl
@[simp] theorem State.quiet_tovFlag (s : State) : (s.quiet).tovFlag = s.tovFlag := rfl
@[simp] theorem State.quiet_tovIe (s : State) : (s.quiet).tovIe = s.tovIe := rfl
@[simp] theorem State.quiet_tbOvf (s : State) : (s.quiet).tbOvf = s.tbOvf := rfl
@[simp] theorem State.quiet_rawT0 (s : State) : (s.quiet).rawT0 = s.rawT0 := rfl
@[simp] theorem State.quiet_rawDur (s : State) : (s.quiet).rawDur = s.rawDur := rfl
@[simp] theorem State.quiet_wKind (s : State) : (s.quiet).wKind = s.wKind := rfl
@[simp] theorem State.quiet_wT0 (s : State) : (s.quiet).wT0 = s.wT0 := rfl
@[simp] theorem State.quiet_wTarget (s : State) : (s.quiet).wTarget = s.wTarget := rfl
@[simp] theorem State.quiet_wRem (s : State) : (s.quiet).wRem = s.wRem := rfl
@[simp] theorem State.quiet_adcEn (s : State) : (s.quiet).adcEn = s.adcEn := rfl
@[simp] theorem State.quiet_adcIe (s : State) : (s.quiet).adcIe = s.adcIe := rfl
@[simp] theorem State.quiet_adcFlag (s : State) : (s.quiet).adcFlag = s.adcFlag := rfl
@[simp] theorem State.quiet_adcMux (s : State) : (s.quiet).adcMux = s.adcMux := rfl
@[simp] theorem State.quiet_adcData (s : State) : (s.quiet).adcData = s.adcData := rfl
@[simp] theorem State.quiet_chan0 (s : State) : (s.quiet).chan0 = s.chan0 := rfl
@[simp] theorem State.quiet_chan1 (s : State) : (s.quiet).chan1 = s.chan1 := rfl
@[simp] theorem State.quiet_src (s : State) : (s.quiet).src = s.src := rfl
@[simp] theorem State.quiet_ocLevel (s : State) : (s.quiet).ocLevel = s.ocLevel := rfl
@[simp] theorem State.quiet_ocPend (s : State) : (s.quiet).ocPend = s.ocPend := rfl
@[simp] theorem State.quiet_ocIe (s : State) : (s.quiet).ocIe = s.ocIe := rfl
@[simp] theorem State.quiet_lpLevel (s : State) : (s.quiet).lpLevel = s.lpLevel := rfl
@[simp] theorem State.quiet_lpPend (s : State) : (s.quiet).lpPend = s.lpPend := rfl
@[simp] theorem State.quiet_lpIe (s : State) : (s.quiet).lpIe = s.lpIe := rfl
@[simp] theorem State.quiet_gie (s : State) : (s.quiet).gie = s.gie := rfl
@[simp] theorem State.quiet_sleeping (s : State) : (s.quiet).sleeping = s.sleeping := rfl
@[simp] theorem State.quiet_ilkHalted (s : State) : (s.quiet).ilkHalted = s.ilkHalted := rfl
@[simp] theorem State.quiet_rstCauseWdt (s : State) : (s.quiet).rstCauseWdt = s.rstCauseWdt := rfl
@[simp] theorem State.quiet_ilkState (s : State) : (s.quiet).ilkState = s.ilkState := rfl
@[simp] theorem State.quiet_ilkPhase (s : State) : (s.quiet).ilkPhase = s.ilkPhase := rfl
@[simp] theorem State.quiet_ilkCadence (s : State) : (s.quiet).ilkCadence = s.ilkCadence := rfl
@[simp] theorem State.quiet_ilkLastTick (s : State) : (s.quiet).ilkLastTick = s.ilkLastTick := rfl
@[simp] theorem State.quiet_ilkLastChange (s : State) : (s.quiet).ilkLastChange = s.ilkLastChange := rfl
@[simp] theorem State.quiet_ilkQ (s : State) : (s.quiet).ilkQ = s.ilkQ := rfl
@[simp] theorem State.quiet_ilkI (s : State) : (s.quiet).ilkI = s.ilkI := rfl
@[simp] theorem State.quiet_ilkV (s : State) : (s.quiet).ilkV = s.ilkV := rfl
@[simp] theorem State.quiet_ilkFc (s : State) : (s.quiet).ilkFc = s.ilkFc := rfl
@[simp] theorem State.quiet_lampChanged (s : State) : (s.quiet).lampChanged = s.lampChanged := rfl
@[simp] theorem State.quiet_pwrEn (s : State) : (s.quiet).pwrEn = s.pwrEn := rfl
@[simp] theorem State.quiet_lampRst (s : State) : (s.quiet).lampRst = s.lampRst := rfl
@[simp] theorem State.quiet_seqHold (s : State) : (s.quiet).seqHold = s.seqHold := rfl
@[simp] theorem State.quiet_wdtKick (s : State) : (s.quiet).wdtKick = false := rfl
@[simp] theorem State.quiet_lampPollReq (s : State) : (s.quiet).lampPollReq = false := rfl
@[simp] theorem State.quiet_cfg (s : State) : (s.quiet).cfg = s.cfg := rfl
@[simp] theorem State.quiet_trace (s : State) : (s.quiet).trace = s.trace := rfl

/-! Fields of `State.kick`. -/

@[simp] theorem State.kick_res (s : State) : (s.kick).res = s.res := rfl
@[simp] theorem State.kick_opErr (s : State) : (s.kick).opErr = s.opErr := rfl
@[simp] theorem State.kick_tbCnt (s : State) : (s.kick).tbCnt = s.tbCnt := rfl
@[simp] theorem State.kick_tovFlag (s : State) : (s.kick).tovFlag = s.tovFlag := rfl
@[simp] theorem State.kick_tovIe (s : State) : (s.kick).tovIe = s.tovIe := rfl
@[simp] theorem State.kick_tbOvf (s : State) : (s.kick).tbOvf = s.tbOvf := rfl
@[simp] theorem State.kick_rawT0 (s : State) : (s.kick).rawT0 = s.rawT0 := rfl
@[simp] theorem State.kick_rawDur (s : State) : (s.kick).rawDur = s.rawDur := rfl
@[simp] theorem State.kick_wKind (s : State) : (s.kick).wKind = s.wKind := rfl
@[simp] theorem State.kick_wT0 (s : State) : (s.kick).wT0 = s.wT0 := rfl
@[simp] theorem State.kick_wTarget (s : State) : (s.kick).wTarget = s.wTarget := rfl
@[simp] theorem State.kick_wRem (s : State) : (s.kick).wRem = s.wRem := rfl
@[simp] theorem State.kick_adcEn (s : State) : (s.kick).adcEn = s.adcEn := rfl
@[simp] theorem State.kick_adcIe (s : State) : (s.kick).adcIe = s.adcIe := rfl
@[simp] theorem State.kick_adcFlag (s : State) : (s.kick).adcFlag = s.adcFlag := rfl
@[simp] theorem State.kick_adcMux (s : State) : (s.kick).adcMux = s.adcMux := rfl
@[simp] theorem State.kick_adcData (s : State) : (s.kick).adcData = s.adcData := rfl
@[simp] theorem State.kick_chan0 (s : State) : (s.kick).chan0 = s.chan0 := rfl
@[simp] theorem State.kick_chan1 (s : State) : (s.kick).chan1 = s.chan1 := rfl
@[simp] theorem State.kick_src (s : State) : (s.kick).src = s.src := rfl
@[simp] theorem State.kick_ocLevel (s : State) : (s.kick).ocLevel = s.ocLevel := rfl
@[simp] theorem State.kick_ocPend (s : State) : (s.kick).ocPend = s.ocPend := rfl
@[simp] theorem State.kick_ocIe (s : State) : (s.kick).ocIe = s.ocIe := rfl
@[simp] theorem State.kick_lpLevel (s : State) : (s.kick).lpLevel = s.lpLevel := rfl
@[simp] theorem State.kick_lpPend (s : State) : (s.kick).lpPend = s.lpPend := rfl
@[simp] theorem State.kick_lpIe (s : State) : (s.kick).lpIe = s.lpIe := rfl
@[simp] theorem State.kick_gie (s : State) : (s.kick).gie = s.gie := rfl
@[simp] theorem State.kick_sleeping (s : State) : (s.kick).sleeping = s.sleeping := rfl
@[simp] theorem State.kick_ilkHalted (s : State) : (s.kick).ilkHalted = s.ilkHalted := rfl
@[simp] theorem State.kick_rstCauseWdt (s : State) : (s.kick).rstCauseWdt = s.rstCauseWdt := rfl
@[simp] theorem State.kick_ilkState (s : State) : (s.kick).ilkState = s.ilkState := rfl
@[simp] theorem State.kick_ilkPhase (s : State) : (s.kick).ilkPhase = s.ilkPhase := rfl
@[simp] theorem State.kick_ilkCadence (s : State) : (s.kick).ilkCadence = s.ilkCadence := rfl
@[simp] theorem State.kick_ilkLastTick (s : State) : (s.kick).ilkLastTick = s.ilkLastTick := rfl
@[simp] theorem State.kick_ilkLastChange (s : State) : (s.kick).ilkLastChange = s.ilkLastChange := rfl
@[simp] theorem State.kick_ilkQ (s : State) : (s.kick).ilkQ = s.ilkQ := rfl
@[simp] theorem State.kick_ilkI (s : State) : (s.kick).ilkI = s.ilkI := rfl
@[simp] theorem State.kick_ilkV (s : State) : (s.kick).ilkV = s.ilkV := rfl
@[simp] theorem State.kick_ilkFc (s : State) : (s.kick).ilkFc = s.ilkFc := rfl
@[simp] theorem State.kick_lampChanged (s : State) : (s.kick).lampChanged = s.lampChanged := rfl
@[simp] theorem State.kick_pwrEn (s : State) : (s.kick).pwrEn = s.pwrEn := rfl
@[simp] theorem State.kick_lampRst (s : State) : (s.kick).lampRst = s.lampRst := rfl
@[simp] theorem State.kick_seqHold (s : State) : (s.kick).seqHold = s.seqHold := rfl
@[simp] theorem State.kick_wdtKick (s : State) : (s.kick).wdtKick = true := rfl
@[simp] theorem State.kick_lampPollReq (s : State) : (s.kick).lampPollReq = false := rfl
@[simp] theorem State.kick_cfg (s : State) : (s.kick).cfg = s.cfg := rfl
@[simp] theorem State.kick_trace (s : State) : (s.kick).trace = s.trace := rfl

/-! Fields of `State.requestPoll`. -/

@[simp] theorem State.requestPoll_res (s : State) : (s.requestPoll).res = s.res := rfl
@[simp] theorem State.requestPoll_opErr (s : State) : (s.requestPoll).opErr = s.opErr := rfl
@[simp] theorem State.requestPoll_tbCnt (s : State) : (s.requestPoll).tbCnt = s.tbCnt := rfl
@[simp] theorem State.requestPoll_tovFlag (s : State) : (s.requestPoll).tovFlag = s.tovFlag := rfl
@[simp] theorem State.requestPoll_tovIe (s : State) : (s.requestPoll).tovIe = s.tovIe := rfl
@[simp] theorem State.requestPoll_tbOvf (s : State) : (s.requestPoll).tbOvf = s.tbOvf := rfl
@[simp] theorem State.requestPoll_rawT0 (s : State) : (s.requestPoll).rawT0 = s.rawT0 := rfl
@[simp] theorem State.requestPoll_rawDur (s : State) : (s.requestPoll).rawDur = s.rawDur := rfl
@[simp] theorem State.requestPoll_wKind (s : State) : (s.requestPoll).wKind = s.wKind := rfl
@[simp] theorem State.requestPoll_wT0 (s : State) : (s.requestPoll).wT0 = s.wT0 := rfl
@[simp] theorem State.requestPoll_wTarget (s : State) : (s.requestPoll).wTarget = s.wTarget := rfl
@[simp] theorem State.requestPoll_wRem (s : State) : (s.requestPoll).wRem = s.wRem := rfl
@[simp] theorem State.requestPoll_adcEn (s : State) : (s.requestPoll).adcEn = s.adcEn := rfl
@[simp] theorem State.requestPoll_adcIe (s : State) : (s.requestPoll).adcIe = s.adcIe := rfl
@[simp] theorem State.requestPoll_adcFlag (s : State) : (s.requestPoll).adcFlag = s.adcFlag := rfl
@[simp] theorem State.requestPoll_adcMux (s : State) : (s.requestPoll).adcMux = s.adcMux := rfl
@[simp] theorem State.requestPoll_adcData (s : State) : (s.requestPoll).adcData = s.adcData := rfl
@[simp] theorem State.requestPoll_chan0 (s : State) : (s.requestPoll).chan0 = s.chan0 := rfl
@[simp] theorem State.requestPoll_chan1 (s : State) : (s.requestPoll).chan1 = s.chan1 := rfl
@[simp] theorem State.requestPoll_src (s : State) : (s.requestPoll).src = s.src := rfl
@[simp] theorem State.requestPoll_ocLevel (s : State) : (s.requestPoll).ocLevel = s.ocLevel := rfl
@[simp] theorem State.requestPoll_ocPend (s : State) : (s.requestPoll).ocPend = s.ocPend := rfl
@[simp] theorem State.requestPoll_ocIe (s : State) : (s.requestPoll).ocIe = s.ocIe := rfl
@[simp] theorem State.requestPoll_lpLevel (s : State) : (s.requestPoll).lpLevel = s.lpLevel := rfl
@[simp] theorem State.requestPoll_lpPend (s : State) : (s.requestPoll).lpPend = s.lpPend := rfl
@[simp] theorem State.requestPoll_lpIe (s : State) : (s.requestPoll).lpIe = s.lpIe := rfl
@[simp] theorem State.requestPoll_gie (s : State) : (s.requestPoll).gie = s.gie := rfl
@[simp] theorem State.requestPoll_sleeping (s : State) : (s.requestPoll).sleeping = s.sleeping := rfl
@[simp] theorem State.requestPoll_ilkHalted (s : State) : (s.requestPoll).ilkHalted = s.ilkHalted := rfl
@[simp] theorem State.requestPoll_rstCauseWdt (s : State) : (s.requestPoll).rstCauseWdt = s.rstCauseWdt := rfl
@[simp] theorem State.requestPoll_ilkState (s : State) : (s.requestPoll).ilkState = s.ilkState := rfl
@[simp] theorem State.requestPoll_ilkPhase (s : State) : (s.requestPoll).ilkPhase = s.ilkPhase := rfl
@[simp] theorem State.requestPoll_ilkCadence (s : State) : (s.requestPoll).ilkCadence = s.ilkCadence := rfl
@[simp] theorem State.requestPoll_ilkLastTick (s : State) : (s.requestPoll).ilkLastTick = s.ilkLastTick := rfl
@[simp] theorem State.requestPoll_ilkLastChange (s : State) : (s.requestPoll).ilkLastChange = s.ilkLastChange := rfl
@[simp] theorem State.requestPoll_ilkQ (s : State) : (s.requestPoll).ilkQ = s.ilkQ := rfl
@[simp] theorem State.requestPoll_ilkI (s : State) : (s.requestPoll).ilkI = s.ilkI := rfl
@[simp] theorem State.requestPoll_ilkV (s : State) : (s.requestPoll).ilkV = s.ilkV := rfl
@[simp] theorem State.requestPoll_ilkFc (s : State) : (s.requestPoll).ilkFc = s.ilkFc := rfl
@[simp] theorem State.requestPoll_lampChanged (s : State) : (s.requestPoll).lampChanged = s.lampChanged := rfl
@[simp] theorem State.requestPoll_pwrEn (s : State) : (s.requestPoll).pwrEn = s.pwrEn := rfl
@[simp] theorem State.requestPoll_lampRst (s : State) : (s.requestPoll).lampRst = s.lampRst := rfl
@[simp] theorem State.requestPoll_seqHold (s : State) : (s.requestPoll).seqHold = s.seqHold := rfl
@[simp] theorem State.requestPoll_wdtKick (s : State) : (s.requestPoll).wdtKick = s.wdtKick := rfl
@[simp] theorem State.requestPoll_lampPollReq (s : State) : (s.requestPoll).lampPollReq = true := rfl
@[simp] theorem State.requestPoll_cfg (s : State) : (s.requestPoll).cfg = s.cfg := rfl
@[simp] theorem State.requestPoll_trace (s : State) : (s.requestPoll).trace = s.trace := rfl

/-! Fields of `State.goto`. -/

@[simp] theorem State.goto_res (s : State) (p : Position) : (s.goto p).res = s.res := rfl
@[simp] theorem State.goto_opErr (s : State) (p : Position) : (s.goto p).opErr = s.opErr := rfl
@[simp] theorem State.goto_tbCnt (s : State) (p : Position) : (s.goto p).tbCnt = s.tbCnt := rfl
@[simp] theorem State.goto_tovFlag (s : State) (p : Position) : (s.goto p).tovFlag = s.tovFlag := rfl
@[simp] theorem State.goto_tovIe (s : State) (p : Position) : (s.goto p).tovIe = s.tovIe := rfl
@[simp] theorem State.goto_tbOvf (s : State) (p : Position) : (s.goto p).tbOvf = s.tbOvf := rfl
@[simp] theorem State.goto_rawT0 (s : State) (p : Position) : (s.goto p).rawT0 = s.rawT0 := rfl
@[simp] theorem State.goto_rawDur (s : State) (p : Position) : (s.goto p).rawDur = s.rawDur := rfl
@[simp] theorem State.goto_wKind (s : State) (p : Position) : (s.goto p).wKind = s.wKind := rfl
@[simp] theorem State.goto_wT0 (s : State) (p : Position) : (s.goto p).wT0 = s.wT0 := rfl
@[simp] theorem State.goto_wTarget (s : State) (p : Position) : (s.goto p).wTarget = s.wTarget := rfl
@[simp] theorem State.goto_wRem (s : State) (p : Position) : (s.goto p).wRem = s.wRem := rfl
@[simp] theorem State.goto_adcEn (s : State) (p : Position) : (s.goto p).adcEn = s.adcEn := rfl
@[simp] theorem State.goto_adcIe (s : State) (p : Position) : (s.goto p).adcIe = s.adcIe := rfl
@[simp] theorem State.goto_adcFlag (s : State) (p : Position) : (s.goto p).adcFlag = s.adcFlag := rfl
@[simp] theorem State.goto_adcMux (s : State) (p : Position) : (s.goto p).adcMux = s.adcMux := rfl
@[simp] theorem State.goto_adcData (s : State) (p : Position) : (s.goto p).adcData = s.adcData := rfl
@[simp] theorem State.goto_chan0 (s : State) (p : Position) : (s.goto p).chan0 = s.chan0 := rfl
@[simp] theorem State.goto_chan1 (s : State) (p : Position) : (s.goto p).chan1 = s.chan1 := rfl
@[simp] theorem State.goto_src (s : State) (p : Position) : (s.goto p).src = s.src := rfl
@[simp] theorem State.goto_ocLevel (s : State) (p : Position) : (s.goto p).ocLevel = s.ocLevel := rfl
@[simp] theorem State.goto_ocPend (s : State) (p : Position) : (s.goto p).ocPend = s.ocPend := rfl
@[simp] theorem State.goto_ocIe (s : State) (p : Position) : (s.goto p).ocIe = s.ocIe := rfl
@[simp] theorem State.goto_lpLevel (s : State) (p : Position) : (s.goto p).lpLevel = s.lpLevel := rfl
@[simp] theorem State.goto_lpPend (s : State) (p : Position) : (s.goto p).lpPend = s.lpPend := rfl
@[simp] theorem State.goto_lpIe (s : State) (p : Position) : (s.goto p).lpIe = s.lpIe := rfl
@[simp] theorem State.goto_gie (s : State) (p : Position) : (s.goto p).gie = s.gie := rfl
@[simp] theorem State.goto_sleeping (s : State) (p : Position) : (s.goto p).sleeping = s.sleeping := rfl
@[simp] theorem State.goto_ilkHalted (s : State) (p : Position) : (s.goto p).ilkHalted = s.ilkHalted := rfl
@[simp] theorem State.goto_rstCauseWdt (s : State) (p : Position) : (s.goto p).rstCauseWdt = s.rstCauseWdt := rfl
@[simp] theorem State.goto_ilkState (s : State) (p : Position) : (s.goto p).ilkState = p.state := rfl
@[simp] theorem State.goto_ilkPhase (s : State) (p : Position) : (s.goto p).ilkPhase = p.phase := rfl
@[simp] theorem State.goto_ilkCadence (s : State) (p : Position) : (s.goto p).ilkCadence = s.ilkCadence := rfl
@[simp] theorem State.goto_ilkLastTick (s : State) (p : Position) : (s.goto p).ilkLastTick = s.ilkLastTick := rfl
@[simp] theorem State.goto_ilkLastChange (s : State) (p : Position) : (s.goto p).ilkLastChange = s.ilkLastChange := rfl
@[simp] theorem State.goto_ilkQ (s : State) (p : Position) : (s.goto p).ilkQ = s.ilkQ := rfl
@[simp] theorem State.goto_ilkI (s : State) (p : Position) : (s.goto p).ilkI = s.ilkI := rfl
@[simp] theorem State.goto_ilkV (s : State) (p : Position) : (s.goto p).ilkV = s.ilkV := rfl
@[simp] theorem State.goto_ilkFc (s : State) (p : Position) : (s.goto p).ilkFc = s.ilkFc := rfl
@[simp] theorem State.goto_lampChanged (s : State) (p : Position) : (s.goto p).lampChanged = s.lampChanged := rfl
@[simp] theorem State.goto_pwrEn (s : State) (p : Position) : (s.goto p).pwrEn = s.pwrEn := rfl
@[simp] theorem State.goto_lampRst (s : State) (p : Position) : (s.goto p).lampRst = s.lampRst := rfl
@[simp] theorem State.goto_seqHold (s : State) (p : Position) : (s.goto p).seqHold = s.seqHold := rfl
@[simp] theorem State.goto_wdtKick (s : State) (p : Position) : (s.goto p).wdtKick = s.wdtKick := rfl
@[simp] theorem State.goto_lampPollReq (s : State) (p : Position) : (s.goto p).lampPollReq = s.lampPollReq := rfl
@[simp] theorem State.goto_cfg (s : State) (p : Position) : (s.goto p).cfg = s.cfg := rfl
@[simp] theorem State.goto_trace (s : State) (p : Position) : (s.goto p).trace = s.trace := rfl

/-! Fields of `State.haltCode`. -/

@[simp] theorem State.haltCode_res (s : State) (id : BitVec 4) : (s.haltCode id).res = s.res := rfl
@[simp] theorem State.haltCode_opErr (s : State) (id : BitVec 4) : (s.haltCode id).opErr = s.opErr := rfl
@[simp] theorem State.haltCode_tbCnt (s : State) (id : BitVec 4) : (s.haltCode id).tbCnt = s.tbCnt := rfl
@[simp] theorem State.haltCode_tovFlag (s : State) (id : BitVec 4) : (s.haltCode id).tovFlag = s.tovFlag := rfl
@[simp] theorem State.haltCode_tovIe (s : State) (id : BitVec 4) : (s.haltCode id).tovIe = s.tovIe := rfl
@[simp] theorem State.haltCode_tbOvf (s : State) (id : BitVec 4) : (s.haltCode id).tbOvf = s.tbOvf := rfl
@[simp] theorem State.haltCode_rawT0 (s : State) (id : BitVec 4) : (s.haltCode id).rawT0 = s.rawT0 := rfl
@[simp] theorem State.haltCode_rawDur (s : State) (id : BitVec 4) : (s.haltCode id).rawDur = s.rawDur := rfl
@[simp] theorem State.haltCode_wKind (s : State) (id : BitVec 4) : (s.haltCode id).wKind = s.wKind := rfl
@[simp] theorem State.haltCode_wT0 (s : State) (id : BitVec 4) : (s.haltCode id).wT0 = s.wT0 := rfl
@[simp] theorem State.haltCode_wTarget (s : State) (id : BitVec 4) : (s.haltCode id).wTarget = s.wTarget := rfl
@[simp] theorem State.haltCode_wRem (s : State) (id : BitVec 4) : (s.haltCode id).wRem = s.wRem := rfl
@[simp] theorem State.haltCode_adcEn (s : State) (id : BitVec 4) : (s.haltCode id).adcEn = s.adcEn := rfl
@[simp] theorem State.haltCode_adcIe (s : State) (id : BitVec 4) : (s.haltCode id).adcIe = s.adcIe := rfl
@[simp] theorem State.haltCode_adcFlag (s : State) (id : BitVec 4) : (s.haltCode id).adcFlag = s.adcFlag := rfl
@[simp] theorem State.haltCode_adcMux (s : State) (id : BitVec 4) : (s.haltCode id).adcMux = s.adcMux := rfl
@[simp] theorem State.haltCode_adcData (s : State) (id : BitVec 4) : (s.haltCode id).adcData = s.adcData := rfl
@[simp] theorem State.haltCode_chan0 (s : State) (id : BitVec 4) : (s.haltCode id).chan0 = s.chan0 := rfl
@[simp] theorem State.haltCode_chan1 (s : State) (id : BitVec 4) : (s.haltCode id).chan1 = s.chan1 := rfl
@[simp] theorem State.haltCode_src (s : State) (id : BitVec 4) : (s.haltCode id).src = s.src := rfl
@[simp] theorem State.haltCode_ocLevel (s : State) (id : BitVec 4) : (s.haltCode id).ocLevel = s.ocLevel := rfl
@[simp] theorem State.haltCode_ocPend (s : State) (id : BitVec 4) : (s.haltCode id).ocPend = s.ocPend := rfl
@[simp] theorem State.haltCode_ocIe (s : State) (id : BitVec 4) : (s.haltCode id).ocIe = s.ocIe := rfl
@[simp] theorem State.haltCode_lpLevel (s : State) (id : BitVec 4) : (s.haltCode id).lpLevel = s.lpLevel := rfl
@[simp] theorem State.haltCode_lpPend (s : State) (id : BitVec 4) : (s.haltCode id).lpPend = s.lpPend := rfl
@[simp] theorem State.haltCode_lpIe (s : State) (id : BitVec 4) : (s.haltCode id).lpIe = s.lpIe := rfl
@[simp] theorem State.haltCode_gie (s : State) (id : BitVec 4) : (s.haltCode id).gie = false := rfl
@[simp] theorem State.haltCode_sleeping (s : State) (id : BitVec 4) : (s.haltCode id).sleeping = false := rfl
@[simp] theorem State.haltCode_ilkHalted (s : State) (id : BitVec 4) : (s.haltCode id).ilkHalted = true := rfl
@[simp] theorem State.haltCode_rstCauseWdt (s : State) (id : BitVec 4) : (s.haltCode id).rstCauseWdt = s.rstCauseWdt := rfl
@[simp] theorem State.haltCode_ilkState (s : State) (id : BitVec 4) : (s.haltCode id).ilkState = 5 := rfl
@[simp] theorem State.haltCode_ilkPhase (s : State) (id : BitVec 4) : (s.haltCode id).ilkPhase = 2 := rfl
@[simp] theorem State.haltCode_ilkCadence (s : State) (id : BitVec 4) : (s.haltCode id).ilkCadence = s.ilkCadence := rfl
@[simp] theorem State.haltCode_ilkLastTick (s : State) (id : BitVec 4) : (s.haltCode id).ilkLastTick = s.ilkLastTick := rfl
@[simp] theorem State.haltCode_ilkLastChange (s : State) (id : BitVec 4) : (s.haltCode id).ilkLastChange = s.ilkLastChange := rfl
@[simp] theorem State.haltCode_ilkQ (s : State) (id : BitVec 4) : (s.haltCode id).ilkQ = s.ilkQ := rfl
@[simp] theorem State.haltCode_ilkI (s : State) (id : BitVec 4) : (s.haltCode id).ilkI = s.ilkI := rfl
@[simp] theorem State.haltCode_ilkV (s : State) (id : BitVec 4) : (s.haltCode id).ilkV = s.ilkV := rfl
@[simp] theorem State.haltCode_ilkFc (s : State) (id : BitVec 4) : (s.haltCode id).ilkFc = id := rfl
@[simp] theorem State.haltCode_lampChanged (s : State) (id : BitVec 4) : (s.haltCode id).lampChanged = s.lampChanged := rfl
@[simp] theorem State.haltCode_pwrEn (s : State) (id : BitVec 4) : (s.haltCode id).pwrEn = s.pwrEn := rfl
@[simp] theorem State.haltCode_lampRst (s : State) (id : BitVec 4) : (s.haltCode id).lampRst = s.lampRst := rfl
@[simp] theorem State.haltCode_seqHold (s : State) (id : BitVec 4) : (s.haltCode id).seqHold = s.seqHold := rfl
@[simp] theorem State.haltCode_wdtKick (s : State) (id : BitVec 4) : (s.haltCode id).wdtKick = s.wdtKick := rfl
@[simp] theorem State.haltCode_lampPollReq (s : State) (id : BitVec 4) : (s.haltCode id).lampPollReq = s.lampPollReq := rfl
@[simp] theorem State.haltCode_cfg (s : State) (id : BitVec 4) : (s.haltCode id).cfg = s.cfg := rfl
@[simp] theorem State.haltCode_trace (s : State) (id : BitVec 4) : (s.haltCode id).trace = s.trace := rfl

/-! Fields of `State.countOverflow`. -/

@[simp] theorem State.countOverflow_res (s : State) : (s.countOverflow).res = s.res := rfl
@[simp] theorem State.countOverflow_opErr (s : State) : (s.countOverflow).opErr = s.opErr := rfl
@[simp] theorem State.countOverflow_tbCnt (s : State) : (s.countOverflow).tbCnt = s.tbCnt := rfl
@[simp] theorem State.countOverflow_tovFlag (s : State) : (s.countOverflow).tovFlag = false := rfl
@[simp] theorem State.countOverflow_tovIe (s : State) : (s.countOverflow).tovIe = s.tovIe := rfl
@[simp] theorem State.countOverflow_tbOvf (s : State) : (s.countOverflow).tbOvf = BitVec.ofNat 32 (wrapW s.cfg.ovfW (s.tbOvf.toNat + 1)) := rfl
@[simp] theorem State.countOverflow_rawT0 (s : State) : (s.countOverflow).rawT0 = s.rawT0 := rfl
@[simp] theorem State.countOverflow_rawDur (s : State) : (s.countOverflow).rawDur = s.rawDur := rfl
@[simp] theorem State.countOverflow_wKind (s : State) : (s.countOverflow).wKind = s.wKind := rfl
@[simp] theorem State.countOverflow_wT0 (s : State) : (s.countOverflow).wT0 = s.wT0 := rfl
@[simp] theorem State.countOverflow_wTarget (s : State) : (s.countOverflow).wTarget = s.wTarget := rfl
@[simp] theorem State.countOverflow_wRem (s : State) : (s.countOverflow).wRem = s.wRem := rfl
@[simp] theorem State.countOverflow_adcEn (s : State) : (s.countOverflow).adcEn = s.adcEn := rfl
@[simp] theorem State.countOverflow_adcIe (s : State) : (s.countOverflow).adcIe = s.adcIe := rfl
@[simp] theorem State.countOverflow_adcFlag (s : State) : (s.countOverflow).adcFlag = s.adcFlag := rfl
@[simp] theorem State.countOverflow_adcMux (s : State) : (s.countOverflow).adcMux = s.adcMux := rfl
@[simp] theorem State.countOverflow_adcData (s : State) : (s.countOverflow).adcData = s.adcData := rfl
@[simp] theorem State.countOverflow_chan0 (s : State) : (s.countOverflow).chan0 = s.chan0 := rfl
@[simp] theorem State.countOverflow_chan1 (s : State) : (s.countOverflow).chan1 = s.chan1 := rfl
@[simp] theorem State.countOverflow_src (s : State) : (s.countOverflow).src = s.src := rfl
@[simp] theorem State.countOverflow_ocLevel (s : State) : (s.countOverflow).ocLevel = s.ocLevel := rfl
@[simp] theorem State.countOverflow_ocPend (s : State) : (s.countOverflow).ocPend = s.ocPend := rfl
@[simp] theorem State.countOverflow_ocIe (s : State) : (s.countOverflow).ocIe = s.ocIe := rfl
@[simp] theorem State.countOverflow_lpLevel (s : State) : (s.countOverflow).lpLevel = s.lpLevel := rfl
@[simp] theorem State.countOverflow_lpPend (s : State) : (s.countOverflow).lpPend = s.lpPend := rfl
@[simp] theorem State.countOverflow_lpIe (s : State) : (s.countOverflow).lpIe = s.lpIe := rfl
@[simp] theorem State.countOverflow_gie (s : State) : (s.countOverflow).gie = s.gie := rfl
@[simp] theorem State.countOverflow_sleeping (s : State) : (s.countOverflow).sleeping = s.sleeping := rfl
@[simp] theorem State.countOverflow_ilkHalted (s : State) : (s.countOverflow).ilkHalted = s.ilkHalted := rfl
@[simp] theorem State.countOverflow_rstCauseWdt (s : State) : (s.countOverflow).rstCauseWdt = s.rstCauseWdt := rfl
@[simp] theorem State.countOverflow_ilkState (s : State) : (s.countOverflow).ilkState = s.ilkState := rfl
@[simp] theorem State.countOverflow_ilkPhase (s : State) : (s.countOverflow).ilkPhase = s.ilkPhase := rfl
@[simp] theorem State.countOverflow_ilkCadence (s : State) : (s.countOverflow).ilkCadence = s.ilkCadence := rfl
@[simp] theorem State.countOverflow_ilkLastTick (s : State) : (s.countOverflow).ilkLastTick = s.ilkLastTick := rfl
@[simp] theorem State.countOverflow_ilkLastChange (s : State) : (s.countOverflow).ilkLastChange = s.ilkLastChange := rfl
@[simp] theorem State.countOverflow_ilkQ (s : State) : (s.countOverflow).ilkQ = s.ilkQ := rfl
@[simp] theorem State.countOverflow_ilkI (s : State) : (s.countOverflow).ilkI = s.ilkI := rfl
@[simp] theorem State.countOverflow_ilkV (s : State) : (s.countOverflow).ilkV = s.ilkV := rfl
@[simp] theorem State.countOverflow_ilkFc (s : State) : (s.countOverflow).ilkFc = s.ilkFc := rfl
@[simp] theorem State.countOverflow_lampChanged (s : State) : (s.countOverflow).lampChanged = s.lampChanged := rfl
@[simp] theorem State.countOverflow_pwrEn (s : State) : (s.countOverflow).pwrEn = s.pwrEn := rfl
@[simp] theorem State.countOverflow_lampRst (s : State) : (s.countOverflow).lampRst = s.lampRst := rfl
@[simp] theorem State.countOverflow_seqHold (s : State) : (s.countOverflow).seqHold = s.seqHold := rfl
@[simp] theorem State.countOverflow_wdtKick (s : State) : (s.countOverflow).wdtKick = s.wdtKick := rfl
@[simp] theorem State.countOverflow_lampPollReq (s : State) : (s.countOverflow).lampPollReq = s.lampPollReq := rfl
@[simp] theorem State.countOverflow_cfg (s : State) : (s.countOverflow).cfg = s.cfg := rfl
@[simp] theorem State.countOverflow_trace (s : State) : (s.countOverflow).trace = s.trace := rfl

/-! Fields of `State.countBy`. -/

@[simp] theorem State.countBy_res (s : State) (n : Nat) : (s.countBy n).res = s.res := rfl
@[simp] theorem State.countBy_opErr (s : State) (n : Nat) : (s.countBy n).opErr = s.opErr := rfl
@[simp] theorem State.countBy_tbCnt (s : State) (n : Nat) : (s.countBy n).tbCnt = countedCnt s.tbCnt n := rfl
@[simp] theorem State.countBy_tovFlag (s : State) (n : Nat) : (s.countBy n).tovFlag = (s.tovFlag || wrapsWithin s.tbCnt n) := rfl
@[simp] theorem State.countBy_tovIe (s : State) (n : Nat) : (s.countBy n).tovIe = s.tovIe := rfl
@[simp] theorem State.countBy_tbOvf (s : State) (n : Nat) : (s.countBy n).tbOvf = s.tbOvf := rfl
@[simp] theorem State.countBy_rawT0 (s : State) (n : Nat) : (s.countBy n).rawT0 = s.rawT0 := rfl
@[simp] theorem State.countBy_rawDur (s : State) (n : Nat) : (s.countBy n).rawDur = s.rawDur := rfl
@[simp] theorem State.countBy_wKind (s : State) (n : Nat) : (s.countBy n).wKind = s.wKind := rfl
@[simp] theorem State.countBy_wT0 (s : State) (n : Nat) : (s.countBy n).wT0 = s.wT0 := rfl
@[simp] theorem State.countBy_wTarget (s : State) (n : Nat) : (s.countBy n).wTarget = s.wTarget := rfl
@[simp] theorem State.countBy_wRem (s : State) (n : Nat) : (s.countBy n).wRem = s.wRem := rfl
@[simp] theorem State.countBy_adcEn (s : State) (n : Nat) : (s.countBy n).adcEn = s.adcEn := rfl
@[simp] theorem State.countBy_adcIe (s : State) (n : Nat) : (s.countBy n).adcIe = s.adcIe := rfl
@[simp] theorem State.countBy_adcFlag (s : State) (n : Nat) : (s.countBy n).adcFlag = s.adcFlag := rfl
@[simp] theorem State.countBy_adcMux (s : State) (n : Nat) : (s.countBy n).adcMux = s.adcMux := rfl
@[simp] theorem State.countBy_adcData (s : State) (n : Nat) : (s.countBy n).adcData = s.adcData := rfl
@[simp] theorem State.countBy_chan0 (s : State) (n : Nat) : (s.countBy n).chan0 = s.chan0 := rfl
@[simp] theorem State.countBy_chan1 (s : State) (n : Nat) : (s.countBy n).chan1 = s.chan1 := rfl
@[simp] theorem State.countBy_src (s : State) (n : Nat) : (s.countBy n).src = s.src := rfl
@[simp] theorem State.countBy_ocLevel (s : State) (n : Nat) : (s.countBy n).ocLevel = s.ocLevel := rfl
@[simp] theorem State.countBy_ocPend (s : State) (n : Nat) : (s.countBy n).ocPend = s.ocPend := rfl
@[simp] theorem State.countBy_ocIe (s : State) (n : Nat) : (s.countBy n).ocIe = s.ocIe := rfl
@[simp] theorem State.countBy_lpLevel (s : State) (n : Nat) : (s.countBy n).lpLevel = s.lpLevel := rfl
@[simp] theorem State.countBy_lpPend (s : State) (n : Nat) : (s.countBy n).lpPend = s.lpPend := rfl
@[simp] theorem State.countBy_lpIe (s : State) (n : Nat) : (s.countBy n).lpIe = s.lpIe := rfl
@[simp] theorem State.countBy_gie (s : State) (n : Nat) : (s.countBy n).gie = s.gie := rfl
@[simp] theorem State.countBy_sleeping (s : State) (n : Nat) : (s.countBy n).sleeping = s.sleeping := rfl
@[simp] theorem State.countBy_ilkHalted (s : State) (n : Nat) : (s.countBy n).ilkHalted = s.ilkHalted := rfl
@[simp] theorem State.countBy_rstCauseWdt (s : State) (n : Nat) : (s.countBy n).rstCauseWdt = s.rstCauseWdt := rfl
@[simp] theorem State.countBy_ilkState (s : State) (n : Nat) : (s.countBy n).ilkState = s.ilkState := rfl
@[simp] theorem State.countBy_ilkPhase (s : State) (n : Nat) : (s.countBy n).ilkPhase = s.ilkPhase := rfl
@[simp] theorem State.countBy_ilkCadence (s : State) (n : Nat) : (s.countBy n).ilkCadence = s.ilkCadence := rfl
@[simp] theorem State.countBy_ilkLastTick (s : State) (n : Nat) : (s.countBy n).ilkLastTick = s.ilkLastTick := rfl
@[simp] theorem State.countBy_ilkLastChange (s : State) (n : Nat) : (s.countBy n).ilkLastChange = s.ilkLastChange := rfl
@[simp] theorem State.countBy_ilkQ (s : State) (n : Nat) : (s.countBy n).ilkQ = s.ilkQ := rfl
@[simp] theorem State.countBy_ilkI (s : State) (n : Nat) : (s.countBy n).ilkI = s.ilkI := rfl
@[simp] theorem State.countBy_ilkV (s : State) (n : Nat) : (s.countBy n).ilkV = s.ilkV := rfl
@[simp] theorem State.countBy_ilkFc (s : State) (n : Nat) : (s.countBy n).ilkFc = s.ilkFc := rfl
@[simp] theorem State.countBy_lampChanged (s : State) (n : Nat) : (s.countBy n).lampChanged = s.lampChanged := rfl
@[simp] theorem State.countBy_pwrEn (s : State) (n : Nat) : (s.countBy n).pwrEn = s.pwrEn := rfl
@[simp] theorem State.countBy_lampRst (s : State) (n : Nat) : (s.countBy n).lampRst = s.lampRst := rfl
@[simp] theorem State.countBy_seqHold (s : State) (n : Nat) : (s.countBy n).seqHold = s.seqHold := rfl
@[simp] theorem State.countBy_wdtKick (s : State) (n : Nat) : (s.countBy n).wdtKick = s.wdtKick := rfl
@[simp] theorem State.countBy_lampPollReq (s : State) (n : Nat) : (s.countBy n).lampPollReq = s.lampPollReq := rfl
@[simp] theorem State.countBy_cfg (s : State) (n : Nat) : (s.countBy n).cfg = s.cfg := rfl
@[simp] theorem State.countBy_trace (s : State) (n : Nat) : (s.countBy n).trace = s.trace := rfl

/-! Fields of `State.deliver`. -/

@[simp] theorem State.deliver_res (s : State) (x : Sample) : (s.deliver x).res = s.res := rfl
@[simp] theorem State.deliver_opErr (s : State) (x : Sample) : (s.deliver x).opErr = s.opErr := rfl
@[simp] theorem State.deliver_tbCnt (s : State) (x : Sample) : (s.deliver x).tbCnt = s.tbCnt := rfl
@[simp] theorem State.deliver_tovFlag (s : State) (x : Sample) : (s.deliver x).tovFlag = s.tovFlag := rfl
@[simp] theorem State.deliver_tovIe (s : State) (x : Sample) : (s.deliver x).tovIe = s.tovIe := rfl
@[simp] theorem State.deliver_tbOvf (s : State) (x : Sample) : (s.deliver x).tbOvf = s.tbOvf := rfl
@[simp] theorem State.deliver_rawT0 (s : State) (x : Sample) : (s.deliver x).rawT0 = s.rawT0 := rfl
@[simp] theorem State.deliver_rawDur (s : State) (x : Sample) : (s.deliver x).rawDur = s.rawDur := rfl
@[simp] theorem State.deliver_wKind (s : State) (x : Sample) : (s.deliver x).wKind = s.wKind := rfl
@[simp] theorem State.deliver_wT0 (s : State) (x : Sample) : (s.deliver x).wT0 = s.wT0 := rfl
@[simp] theorem State.deliver_wTarget (s : State) (x : Sample) : (s.deliver x).wTarget = s.wTarget := rfl
@[simp] theorem State.deliver_wRem (s : State) (x : Sample) : (s.deliver x).wRem = s.wRem := rfl
@[simp] theorem State.deliver_adcEn (s : State) (x : Sample) : (s.deliver x).adcEn = s.adcEn := rfl
@[simp] theorem State.deliver_adcIe (s : State) (x : Sample) : (s.deliver x).adcIe = s.adcIe := rfl
@[simp] theorem State.deliver_adcFlag (s : State) (x : Sample) : (s.deliver x).adcFlag = true := rfl
@[simp] theorem State.deliver_adcMux (s : State) (x : Sample) : (s.deliver x).adcMux = s.adcMux := rfl
@[simp] theorem State.deliver_adcData (s : State) (x : Sample) : (s.deliver x).adcData = x := rfl
@[simp] theorem State.deliver_chan0 (s : State) (x : Sample) : (s.deliver x).chan0 = s.chan0 := rfl
@[simp] theorem State.deliver_chan1 (s : State) (x : Sample) : (s.deliver x).chan1 = s.chan1 := rfl
@[simp] theorem State.deliver_src (s : State) (x : Sample) : (s.deliver x).src = s.src := rfl
@[simp] theorem State.deliver_ocLevel (s : State) (x : Sample) : (s.deliver x).ocLevel = s.ocLevel := rfl
@[simp] theorem State.deliver_ocPend (s : State) (x : Sample) : (s.deliver x).ocPend = s.ocPend := rfl
@[simp] theorem State.deliver_ocIe (s : State) (x : Sample) : (s.deliver x).ocIe = s.ocIe := rfl
@[simp] theorem State.deliver_lpLevel (s : State) (x : Sample) : (s.deliver x).lpLevel = s.lpLevel := rfl
@[simp] theorem State.deliver_lpPend (s : State) (x : Sample) : (s.deliver x).lpPend = s.lpPend := rfl
@[simp] theorem State.deliver_lpIe (s : State) (x : Sample) : (s.deliver x).lpIe = s.lpIe := rfl
@[simp] theorem State.deliver_gie (s : State) (x : Sample) : (s.deliver x).gie = s.gie := rfl
@[simp] theorem State.deliver_sleeping (s : State) (x : Sample) : (s.deliver x).sleeping = s.sleeping := rfl
@[simp] theorem State.deliver_ilkHalted (s : State) (x : Sample) : (s.deliver x).ilkHalted = s.ilkHalted := rfl
@[simp] theorem State.deliver_rstCauseWdt (s : State) (x : Sample) : (s.deliver x).rstCauseWdt = s.rstCauseWdt := rfl
@[simp] theorem State.deliver_ilkState (s : State) (x : Sample) : (s.deliver x).ilkState = s.ilkState := rfl
@[simp] theorem State.deliver_ilkPhase (s : State) (x : Sample) : (s.deliver x).ilkPhase = s.ilkPhase := rfl
@[simp] theorem State.deliver_ilkCadence (s : State) (x : Sample) : (s.deliver x).ilkCadence = s.ilkCadence := rfl
@[simp] theorem State.deliver_ilkLastTick (s : State) (x : Sample) : (s.deliver x).ilkLastTick = s.ilkLastTick := rfl
@[simp] theorem State.deliver_ilkLastChange (s : State) (x : Sample) : (s.deliver x).ilkLastChange = s.ilkLastChange := rfl
@[simp] theorem State.deliver_ilkQ (s : State) (x : Sample) : (s.deliver x).ilkQ = s.ilkQ := rfl
@[simp] theorem State.deliver_ilkI (s : State) (x : Sample) : (s.deliver x).ilkI = s.ilkI := rfl
@[simp] theorem State.deliver_ilkV (s : State) (x : Sample) : (s.deliver x).ilkV = s.ilkV := rfl
@[simp] theorem State.deliver_ilkFc (s : State) (x : Sample) : (s.deliver x).ilkFc = s.ilkFc := rfl
@[simp] theorem State.deliver_lampChanged (s : State) (x : Sample) : (s.deliver x).lampChanged = s.lampChanged := rfl
@[simp] theorem State.deliver_pwrEn (s : State) (x : Sample) : (s.deliver x).pwrEn = s.pwrEn := rfl
@[simp] theorem State.deliver_lampRst (s : State) (x : Sample) : (s.deliver x).lampRst = s.lampRst := rfl
@[simp] theorem State.deliver_seqHold (s : State) (x : Sample) : (s.deliver x).seqHold = s.seqHold := rfl
@[simp] theorem State.deliver_wdtKick (s : State) (x : Sample) : (s.deliver x).wdtKick = s.wdtKick := rfl
@[simp] theorem State.deliver_lampPollReq (s : State) (x : Sample) : (s.deliver x).lampPollReq = s.lampPollReq := rfl
@[simp] theorem State.deliver_cfg (s : State) (x : Sample) : (s.deliver x).cfg = s.cfg := rfl
@[simp] theorem State.deliver_trace (s : State) (x : Sample) : (s.deliver x).trace = s.trace := rfl

/-! Fields of `State.openWindow`. -/

@[simp] theorem State.openWindow_res (s : State) (t0 d : BitVec 32) : (s.openWindow t0 d).res = s.res := rfl
@[simp] theorem State.openWindow_opErr (s : State) (t0 d : BitVec 32) : (s.openWindow t0 d).opErr = s.opErr := rfl
@[simp] theorem State.openWindow_tbCnt (s : State) (t0 d : BitVec 32) : (s.openWindow t0 d).tbCnt = s.tbCnt := rfl
@[simp] theorem State.openWindow_tovFlag (s : State) (t0 d : BitVec 32) : (s.openWindow t0 d).tovFlag = s.tovFlag := rfl
@[simp] theorem State.openWindow_tovIe (s : State) (t0 d : BitVec 32) : (s.openWindow t0 d).tovIe = s.tovIe := rfl
@[simp] theorem State.openWindow_tbOvf (s : State) (t0 d : BitVec 32) : (s.openWindow t0 d).tbOvf = s.tbOvf := rfl
@[simp] theorem State.openWindow_rawT0 (s : State) (t0 d : BitVec 32) : (s.openWindow t0 d).rawT0 = t0 := rfl
@[simp] theorem State.openWindow_rawDur (s : State) (t0 d : BitVec 32) : (s.openWindow t0 d).rawDur = d := rfl
@[simp] theorem State.openWindow_wKind (s : State) (t0 d : BitVec 32) : (s.openWindow t0 d).wKind = s.wKind := rfl
@[simp] theorem State.openWindow_wT0 (s : State) (t0 d : BitVec 32) : (s.openWindow t0 d).wT0 = s.wT0 := rfl
@[simp] theorem State.openWindow_wTarget (s : State) (t0 d : BitVec 32) : (s.openWindow t0 d).wTarget = s.wTarget := rfl
@[simp] theorem State.openWindow_wRem (s : State) (t0 d : BitVec 32) : (s.openWindow t0 d).wRem = s.wRem := rfl
@[simp] theorem State.openWindow_adcEn (s : State) (t0 d : BitVec 32) : (s.openWindow t0 d).adcEn = s.adcEn := rfl
@[simp] theorem State.openWindow_adcIe (s : State) (t0 d : BitVec 32) : (s.openWindow t0 d).adcIe = s.adcIe := rfl
@[simp] theorem State.openWindow_adcFlag (s : State) (t0 d : BitVec 32) : (s.openWindow t0 d).adcFlag = s.adcFlag := rfl
@[simp] theorem State.openWindow_adcMux (s : State) (t0 d : BitVec 32) : (s.openWindow t0 d).adcMux = s.adcMux := rfl
@[simp] theorem State.openWindow_adcData (s : State) (t0 d : BitVec 32) : (s.openWindow t0 d).adcData = s.adcData := rfl
@[simp] theorem State.openWindow_chan0 (s : State) (t0 d : BitVec 32) : (s.openWindow t0 d).chan0 = s.chan0 := rfl
@[simp] theorem State.openWindow_chan1 (s : State) (t0 d : BitVec 32) : (s.openWindow t0 d).chan1 = s.chan1 := rfl
@[simp] theorem State.openWindow_src (s : State) (t0 d : BitVec 32) : (s.openWindow t0 d).src = s.src := rfl
@[simp] theorem State.openWindow_ocLevel (s : State) (t0 d : BitVec 32) : (s.openWindow t0 d).ocLevel = s.ocLevel := rfl
@[simp] theorem State.openWindow_ocPend (s : State) (t0 d : BitVec 32) : (s.openWindow t0 d).ocPend = s.ocPend := rfl
@[simp] theorem State.openWindow_ocIe (s : State) (t0 d : BitVec 32) : (s.openWindow t0 d).ocIe = s.ocIe := rfl
@[simp] theorem State.openWindow_lpLevel (s : State) (t0 d : BitVec 32) : (s.openWindow t0 d).lpLevel = s.lpLevel := rfl
@[simp] theorem State.openWindow_lpPend (s : State) (t0 d : BitVec 32) : (s.openWindow t0 d).lpPend = s.lpPend := rfl
@[simp] theorem State.openWindow_lpIe (s : State) (t0 d : BitVec 32) : (s.openWindow t0 d).lpIe = s.lpIe := rfl
@[simp] theorem State.openWindow_gie (s : State) (t0 d : BitVec 32) : (s.openWindow t0 d).gie = s.gie := rfl
@[simp] theorem State.openWindow_sleeping (s : State) (t0 d : BitVec 32) : (s.openWindow t0 d).sleeping = s.sleeping := rfl
@[simp] theorem State.openWindow_ilkHalted (s : State) (t0 d : BitVec 32) : (s.openWindow t0 d).ilkHalted = s.ilkHalted := rfl
@[simp] theorem State.openWindow_rstCauseWdt (s : State) (t0 d : BitVec 32) : (s.openWindow t0 d).rstCauseWdt = s.rstCauseWdt := rfl
@[simp] theorem State.openWindow_ilkState (s : State) (t0 d : BitVec 32) : (s.openWindow t0 d).ilkState = s.ilkState := rfl
@[simp] theorem State.openWindow_ilkPhase (s : State) (t0 d : BitVec 32) : (s.openWindow t0 d).ilkPhase = s.ilkPhase := rfl
@[simp] theorem State.openWindow_ilkCadence (s : State) (t0 d : BitVec 32) : (s.openWindow t0 d).ilkCadence = s.ilkCadence := rfl
@[simp] theorem State.openWindow_ilkLastTick (s : State) (t0 d : BitVec 32) : (s.openWindow t0 d).ilkLastTick = s.ilkLastTick := rfl
@[simp] theorem State.openWindow_ilkLastChange (s : State) (t0 d : BitVec 32) : (s.openWindow t0 d).ilkLastChange = s.ilkLastChange := rfl
@[simp] theorem State.openWindow_ilkQ (s : State) (t0 d : BitVec 32) : (s.openWindow t0 d).ilkQ = s.ilkQ := rfl
@[simp] theorem State.openWindow_ilkI (s : State) (t0 d : BitVec 32) : (s.openWindow t0 d).ilkI = s.ilkI := rfl
@[simp] theorem State.openWindow_ilkV (s : State) (t0 d : BitVec 32) : (s.openWindow t0 d).ilkV = s.ilkV := rfl
@[simp] theorem State.openWindow_ilkFc (s : State) (t0 d : BitVec 32) : (s.openWindow t0 d).ilkFc = s.ilkFc := rfl
@[simp] theorem State.openWindow_lampChanged (s : State) (t0 d : BitVec 32) : (s.openWindow t0 d).lampChanged = s.lampChanged := rfl
@[simp] theorem State.openWindow_pwrEn (s : State) (t0 d : BitVec 32) : (s.openWindow t0 d).pwrEn = s.pwrEn := rfl
@[simp] theorem State.openWindow_lampRst (s : State) (t0 d : BitVec 32) : (s.openWindow t0 d).lampRst = s.lampRst := rfl
@[simp] theorem State.openWindow_seqHold (s : State) (t0 d : BitVec 32) : (s.openWindow t0 d).seqHold = s.seqHold := rfl
@[simp] theorem State.openWindow_wdtKick (s : State) (t0 d : BitVec 32) : (s.openWindow t0 d).wdtKick = s.wdtKick := rfl
@[simp] theorem State.openWindow_lampPollReq (s : State) (t0 d : BitVec 32) : (s.openWindow t0 d).lampPollReq = s.lampPollReq := rfl
@[simp] theorem State.openWindow_cfg (s : State) (t0 d : BitVec 32) : (s.openWindow t0 d).cfg = s.cfg := rfl
@[simp] theorem State.openWindow_trace (s : State) (t0 d : BitVec 32) : (s.openWindow t0 d).trace = s.trace := rfl

/-! Fields of `State.setChan`. -/

@[simp] theorem State.setChan_res (s : State) (c : Channel) (a : ChannelAcc) : (s.setChan c a).res = s.res := by
  cases c <;> rfl
@[simp] theorem State.setChan_opErr (s : State) (c : Channel) (a : ChannelAcc) : (s.setChan c a).opErr = s.opErr := by
  cases c <;> rfl
@[simp] theorem State.setChan_tbCnt (s : State) (c : Channel) (a : ChannelAcc) : (s.setChan c a).tbCnt = s.tbCnt := by
  cases c <;> rfl
@[simp] theorem State.setChan_tovFlag (s : State) (c : Channel) (a : ChannelAcc) : (s.setChan c a).tovFlag = s.tovFlag := by
  cases c <;> rfl
@[simp] theorem State.setChan_tovIe (s : State) (c : Channel) (a : ChannelAcc) : (s.setChan c a).tovIe = s.tovIe := by
  cases c <;> rfl
@[simp] theorem State.setChan_tbOvf (s : State) (c : Channel) (a : ChannelAcc) : (s.setChan c a).tbOvf = s.tbOvf := by
  cases c <;> rfl
@[simp] theorem State.setChan_rawT0 (s : State) (c : Channel) (a : ChannelAcc) : (s.setChan c a).rawT0 = s.rawT0 := by
  cases c <;> rfl
@[simp] theorem State.setChan_rawDur (s : State) (c : Channel) (a : ChannelAcc) : (s.setChan c a).rawDur = s.rawDur := by
  cases c <;> rfl
@[simp] theorem State.setChan_wKind (s : State) (c : Channel) (a : ChannelAcc) : (s.setChan c a).wKind = s.wKind := by
  cases c <;> rfl
@[simp] theorem State.setChan_wT0 (s : State) (c : Channel) (a : ChannelAcc) : (s.setChan c a).wT0 = s.wT0 := by
  cases c <;> rfl
@[simp] theorem State.setChan_wTarget (s : State) (c : Channel) (a : ChannelAcc) : (s.setChan c a).wTarget = s.wTarget := by
  cases c <;> rfl
@[simp] theorem State.setChan_wRem (s : State) (c : Channel) (a : ChannelAcc) : (s.setChan c a).wRem = s.wRem := by
  cases c <;> rfl
@[simp] theorem State.setChan_adcEn (s : State) (c : Channel) (a : ChannelAcc) : (s.setChan c a).adcEn = s.adcEn := by
  cases c <;> rfl
@[simp] theorem State.setChan_adcIe (s : State) (c : Channel) (a : ChannelAcc) : (s.setChan c a).adcIe = s.adcIe := by
  cases c <;> rfl
@[simp] theorem State.setChan_adcFlag (s : State) (c : Channel) (a : ChannelAcc) : (s.setChan c a).adcFlag = s.adcFlag := by
  cases c <;> rfl
@[simp] theorem State.setChan_adcMux (s : State) (c : Channel) (a : ChannelAcc) : (s.setChan c a).adcMux = s.adcMux := by
  cases c <;> rfl
@[simp] theorem State.setChan_adcData (s : State) (c : Channel) (a : ChannelAcc) : (s.setChan c a).adcData = s.adcData := by
  cases c <;> rfl
@[simp] theorem State.setChan_src (s : State) (c : Channel) (a : ChannelAcc) : (s.setChan c a).src = s.src := by
  cases c <;> rfl
@[simp] theorem State.setChan_ocLevel (s : State) (c : Channel) (a : ChannelAcc) : (s.setChan c a).ocLevel = s.ocLevel := by
  cases c <;> rfl
@[simp] theorem State.setChan_ocPend (s : State) (c : Channel) (a : ChannelAcc) : (s.setChan c a).ocPend = s.ocPend := by
  cases c <;> rfl
@[simp] theorem State.setChan_ocIe (s : State) (c : Channel) (a : ChannelAcc) : (s.setChan c a).ocIe = s.ocIe := by
  cases c <;> rfl
@[simp] theorem State.setChan_lpLevel (s : State) (c : Channel) (a : ChannelAcc) : (s.setChan c a).lpLevel = s.lpLevel := by
  cases c <;> rfl
@[simp] theorem State.setChan_lpPend (s : State) (c : Channel) (a : ChannelAcc) : (s.setChan c a).lpPend = s.lpPend := by
  cases c <;> rfl
@[simp] theorem State.setChan_lpIe (s : State) (c : Channel) (a : ChannelAcc) : (s.setChan c a).lpIe = s.lpIe := by
  cases c <;> rfl
@[simp] theorem State.setChan_gie (s : State) (c : Channel) (a : ChannelAcc) : (s.setChan c a).gie = s.gie := by
  cases c <;> rfl
@[simp] theorem State.setChan_sleeping (s : State) (c : Channel) (a : ChannelAcc) : (s.setChan c a).sleeping = s.sleeping := by
  cases c <;> rfl
@[simp] theorem State.setChan_ilkHalted (s : State) (c : Channel) (a : ChannelAcc) : (s.setChan c a).ilkHalted = s.ilkHalted := by
  cases c <;> rfl
@[simp] theorem State.setChan_rstCauseWdt (s : State) (c : Channel) (a : ChannelAcc) : (s.setChan c a).rstCauseWdt = s.rstCauseWdt := by
  cases c <;> rfl
@[simp] theorem State.setChan_ilkState (s : State) (c : Channel) (a : ChannelAcc) : (s.setChan c a).ilkState = s.ilkState := by
  cases c <;> rfl
@[simp] theorem State.setChan_ilkPhase (s : State) (c : Channel) (a : ChannelAcc) : (s.setChan c a).ilkPhase = s.ilkPhase := by
  cases c <;> rfl
@[simp] theorem State.setChan_ilkCadence (s : State) (c : Channel) (a : ChannelAcc) : (s.setChan c a).ilkCadence = s.ilkCadence := by
  cases c <;> rfl
@[simp] theorem State.setChan_ilkLastTick (s : State) (c : Channel) (a : ChannelAcc) : (s.setChan c a).ilkLastTick = s.ilkLastTick := by
  cases c <;> rfl
@[simp] theorem State.setChan_ilkLastChange (s : State) (c : Channel) (a : ChannelAcc) : (s.setChan c a).ilkLastChange = s.ilkLastChange := by
  cases c <;> rfl
@[simp] theorem State.setChan_ilkQ (s : State) (c : Channel) (a : ChannelAcc) : (s.setChan c a).ilkQ = s.ilkQ := by
  cases c <;> rfl
@[simp] theorem State.setChan_ilkI (s : State) (c : Channel) (a : ChannelAcc) : (s.setChan c a).ilkI = s.ilkI := by
  cases c <;> rfl
@[simp] theorem State.setChan_ilkV (s : State) (c : Channel) (a : ChannelAcc) : (s.setChan c a).ilkV = s.ilkV := by
  cases c <;> rfl
@[simp] theorem State.setChan_ilkFc (s : State) (c : Channel) (a : ChannelAcc) : (s.setChan c a).ilkFc = s.ilkFc := by
  cases c <;> rfl
@[simp] theorem State.setChan_lampChanged (s : State) (c : Channel) (a : ChannelAcc) : (s.setChan c a).lampChanged = s.lampChanged := by
  cases c <;> rfl
@[simp] theorem State.setChan_pwrEn (s : State) (c : Channel) (a : ChannelAcc) : (s.setChan c a).pwrEn = s.pwrEn := by
  cases c <;> rfl
@[simp] theorem State.setChan_lampRst (s : State) (c : Channel) (a : ChannelAcc) : (s.setChan c a).lampRst = s.lampRst := by
  cases c <;> rfl
@[simp] theorem State.setChan_seqHold (s : State) (c : Channel) (a : ChannelAcc) : (s.setChan c a).seqHold = s.seqHold := by
  cases c <;> rfl
@[simp] theorem State.setChan_wdtKick (s : State) (c : Channel) (a : ChannelAcc) : (s.setChan c a).wdtKick = s.wdtKick := by
  cases c <;> rfl
@[simp] theorem State.setChan_lampPollReq (s : State) (c : Channel) (a : ChannelAcc) : (s.setChan c a).lampPollReq = s.lampPollReq := by
  cases c <;> rfl
@[simp] theorem State.setChan_cfg (s : State) (c : Channel) (a : ChannelAcc) : (s.setChan c a).cfg = s.cfg := by
  cases c <;> rfl
@[simp] theorem State.setChan_trace (s : State) (c : Channel) (a : ChannelAcc) : (s.setChan c a).trace = s.trace := by
  cases c <;> rfl

@[simp] theorem State.setChan_ch0_chan0 (s : State) (a : ChannelAcc) : (s.setChan .ch0 a).chan0 = a := rfl
@[simp] theorem State.setChan_ch0_chan1 (s : State) (a : ChannelAcc) : (s.setChan .ch0 a).chan1 = s.chan1 := rfl
@[simp] theorem State.setChan_ch1_chan0 (s : State) (a : ChannelAcc) : (s.setChan .ch1 a).chan0 = s.chan0 := rfl
@[simp] theorem State.setChan_ch1_chan1 (s : State) (a : ChannelAcc) : (s.setChan .ch1 a).chan1 = a := rfl
@[simp] theorem State.chan_ch0 (s : State) : s.chan .ch0 = s.chan0 := rfl
@[simp] theorem State.chan_ch1 (s : State) : s.chan .ch1 = s.chan1 := rfl

@[simp] theorem State.chan_setChan (s : State) (c : Channel) (a : ChannelAcc) : (s.setChan c a).chan c = a := by
  cases c <;> rfl

theorem State.chan_setChan_ne (s : State) {c m : Channel} (a : ChannelAcc) (h : c ≠ m) :
    (s.setChan m a).chan c = s.chan c := by
  cases c <;> cases m <;> first | rfl | exact absurd rfl h

end Sys2Proof.Machine
end

