-- ==== Sys2Proof/Laws/Ops.lean ====
section
/-! SUPPORT. One lemma per shared operation that says once everything it can do: the inversion of the
enabling of foreground words, of taking an interrupt, of the operand domains, of the wait poll, of the
handlers and of the step itself. -/

namespace Sys2Proof.Machine

/-! The foreground. -/

theorem operationRefusal_eq_none (s : State) : operationRefusal s = none ↔ ForegroundFree s := by
  unfold operationRefusal ForegroundFree waitNone
  cases s.ilkHalted <;> cases s.sleeping <;> cases s.seqHold <;>
    first | (simp; done) | (simp; split <;> simp)

theorem operation_of_free {s : State} (h : ForegroundFree s) (f : State → StepResult) :
    operation s f = f s.kick := by
  simp only [operation, (operationRefusal_eq_none s).2 h]

theorem operation_of_not_free {s : State} (h : ¬ForegroundFree s) (f : State → StepResult) :
    ∃ r, operation s f = .refused r := by
  unfold operation
  cases e : operationRefusal s with
  | none => exact absurd ((operationRefusal_eq_none s).1 e) h
  | some r => exact ⟨r, rfl⟩

/-- An operation that answers a next state was enabled, and answers what its effect does. -/
theorem operation_next {s t : State} {f : State → StepResult} (h : operation s f = .next t) :
    ForegroundFree s ∧ f s.kick = .next t := by
  by_cases hf : ForegroundFree s
  · exact ⟨hf, by rwa [operation_of_free hf] at h⟩
  · obtain ⟨r, hr⟩ := operation_of_not_free hf f
    rw [hr] at h; cases h

theorem simpleOperation_of_free {s : State} (h : ForegroundFree s) (f : State → State) :
    simpleOperation s f = .next (f s.kick) := operation_of_free h _

theorem simpleOperation_of_not_free {s : State} (h : ¬ForegroundFree s) (f : State → State) :
    ∃ r, simpleOperation s f = .refused r := operation_of_not_free h _

theorem simpleOperation_next {s t : State} {f : State → State} (h : simpleOperation s f = .next t) :
    ForegroundFree s ∧ t = f s.kick := by
  obtain ⟨hf, h⟩ := operation_next h
  exact ⟨hf, by injection h with h; exact h.symm⟩

theorem withDuration_next {d : BitVec 32} {s t : State} {f : State → State}
    (h : withDuration d s f = .next t) : d.toNat < s.cfg.msWrap ∧ t = f s := by
  unfold withDuration at h
  split at h
  · injection h with h; exact ⟨‹_›, h.symm⟩
  · cases h

theorem sysSleep_next {s t : State} (h : sysSleep s = .next t) :
    s.gie = true ∧ ((anyPending s = true ∧ t = s) ∨
      (anyPending s = false ∧ t = { s with sleeping := true })) := by
  unfold sysSleep at h
  split at h
  · refine ⟨‹_›, ?_⟩
    split at h <;> injection h with h
    · exact .inl ⟨‹_›, h.symm⟩
    · exact .inr ⟨by simpa using ‹¬anyPending s = true›, h.symm⟩
  · cases h

theorem sysHalt_next {s t : State} (h : sysHalt s = .next t) :
    ∃ id : BitVec 4, id ≠ 0 ∧ (s.ilkFc = 0 → id = 10) ∧ (s.ilkFc ≠ 0 → id = s.ilkFc) ∧
      t = s.quiet.haltCode id := by
  unfold sysHalt at h
  split at h
  · injection h with h
    exact ⟨10, by decide, fun _ => rfl, fun hne => absurd ‹_› hne, h.symm⟩
  · injection h with h
    exact ⟨s.ilkFc, ‹_›, fun h0 => absurd h0 ‹_›, fun _ => rfl, h.symm⟩

/-- The wait poll answers the poll of the wait in progress. -/
theorem waitPoll_next {s t : State} (h : waitPoll s = .next t) :
    (s.wKind = 1 ∧ t = pollSync s) ∨ (s.wKind = 2 ∧ t = pollMsNowrap s) ∨
    (s.wKind = 3 ∧ t = pollMsWrapwait s) ∨ (s.wKind = 4 ∧ t = pollTick s) ∨
    (s.wKind = 5 ∧ t = pollRaw s) := by
  have key : ∀ k : BitVec 3, (waitOfCode k = some .sync → k = 1) ∧
      (waitOfCode k = some .msNowrap → k = 2) ∧ (waitOfCode k = some .msWrapwait → k = 3) ∧
      (waitOfCode k = some .tick → k = 4) ∧ (waitOfCode k = some .raw → k = 5) := by decide
  obtain ⟨h1, h2, h3, h4, h5⟩ := key s.wKind
  unfold waitPoll at h
  split at h <;> first | (injection h with h; subst h) | cases h
  · exact .inl ⟨h1 ‹_›, rfl⟩
  · exact .inr (.inl ⟨h2 ‹_›, rfl⟩)
  · exact .inr (.inr (.inl ⟨h3 ‹_›, rfl⟩))
  · exact .inr (.inr (.inr (.inl ⟨h4 ‹_›, rfl⟩)))
  · exact .inr (.inr (.inr (.inr ⟨h5 ‹_›, rfl⟩)))

/-- The micro-step of the position the sequencer stands at. -/
theorem sequencerStep_next {s t : State} (h : sequencerStep s = .next t) :
    ∃ p, s.position = some p ∧ microStep p s = .next t := by
  unfold sequencerStep at h
  split at h
  · exact ⟨_, ‹_›, h⟩
  · cases h

/-- The number of a listed position determines it, and is the number of that position. -/
theorem positionOf_some : ∀ (st : BitVec 3) (ph : BitVec 4) (p : Position),
    positionOf st ph = some p → st = p.state ∧ ph = p.phase := by
  intro st ph p h
  have key : ∀ (st : BitVec 3) (ph : BitVec 4), (positionOf st ph).all
      (fun p => decide (st = p.state) && decide (ph = p.phase)) = true := by decide
  have := key st ph
  rw [h] at this
  simpa using this

@[simp] theorem positionOf_position (p : Position) : positionOf p.state p.phase = some p := by
  cases p <;> rfl

theorem State.position_some {s : State} {p : Position} (h : s.position = some p) :
    s.ilkState = p.state ∧ s.ilkPhase = p.phase := positionOf_some _ _ _ h

theorem State.position_of {s : State} {p : Position} (h1 : s.ilkState = p.state)
    (h2 : s.ilkPhase = p.phase) : s.position = some p := by
  simp [State.position, h1, h2]

/-- A foreground step is a wait poll or a micro-step of the sequencer. -/
theorem foregroundStep_next {s t : State} (h : foregroundStep s = .next t) :
    s.ilkHalted = false ∧ s.sleeping = false ∧
      ((s.wKind ≠ 0 ∧ waitPoll s.kick = .next t) ∨
       (s.wKind = 0 ∧ s.seqHold = false ∧ sequencerStep s.kick = .next t)) := by
  unfold foregroundStep waitNone at h
  split at h
  · cases h
  · split at h
    · cases h
    · refine ⟨by simpa using ‹¬s.ilkHalted = true›, by simpa using ‹¬s.sleeping = true›, ?_⟩
      split at h
      · exact .inl ⟨‹_›, h⟩
      · split at h
        · cases h
        · exact .inr ⟨by simpa using ‹¬s.wKind ≠ 0›, by simpa using ‹¬s.seqHold = true›, h⟩

theorem foregroundStep_poll {s : State} (hh : s.ilkHalted = false) (hs : s.sleeping = false)
    (hw : s.wKind ≠ 0) : foregroundStep s = waitPoll s.kick := by
  simp only [foregroundStep, waitNone, hh, hs, Bool.false_eq_true, if_false]
  exact if_pos hw

theorem foregroundStep_sequencer {s : State} {p : Position} (h : SequencerAt p s) :
    foregroundStep s = microStep p s.kick := by
  obtain ⟨⟨hh, hs⟩, hw, hq, h1, h2⟩ := h
  have hp : s.kick.position = some p := State.position_of h1 h2
  simp [foregroundStep, waitNone, hh, hs, hw, hq, sequencerStep, hp]

/-- What every foreground step keeps, `FG.STEP n` keeps: the induction, once. -/
theorem foregroundSteps_keeps {P : State → Prop}
    (hstep : ∀ s t, P s → foregroundStep s = .next t → P t) :
    ∀ n s t, P s → foregroundSteps n s = .next t → P t := by
  intro n
  induction n with
  | zero => intro s t hs h; injection h with h; exact h ▸ hs
  | succ n ih =>
    intro s t hs h
    unfold foregroundSteps at h
    split at h
    · exact ih _ _ (hstep _ _ hs ‹_›) h
    · cases h
    · cases h

theorem foregroundSteps_one (s : State) : foregroundSteps 1 s = foregroundStep s := by
  simp only [foregroundSteps]
  cases foregroundStep s <;> rfl

theorem execFgStep_next {n : BitVec 32} {s t : State} (h : execFgStep n s = .next t) :
    n.toNat ≠ 0 ∧ foregroundSteps n.toNat s = .next t := by
  unfold execFgStep at h
  split at h
  · cases h
  · exact ⟨‹_›, h⟩

theorem execFgStep_one (s : State) : execFgStep 1 s = foregroundStep s := by
  have : execFgStep 1 s = foregroundSteps 1 s := rfl
  rw [this, foregroundSteps_one]

theorem execEvCount_next {n : BitVec 32} {s t : State} (h : execEvCount n s = .next t) :
    n.toNat ≠ 0 ∧ t = s.quiet.countBy n.toNat := by
  unfold execEvCount at h
  split at h
  · cases h
  · injection h with h; exact ⟨‹_›, h.symm⟩

/-! Interrupts. -/

theorem takeInterrupt_next {x : IrqSource} {s t : State} {body : State → StepResult}
    (h : takeInterrupt x s body = .next t) :
    takeable x s = true ∧ body { s.quiet with sleeping := false } = .next t := by
  unfold takeInterrupt at h
  split at h
  · exact ⟨‹_›, h⟩
  · cases h

theorem takeable_next {x : IrqSource} {s : State} (h : takeable x s = true) :
    s.gie = true ∧ s.ilkHalted = false ∧ pendingEnabled x s = true := by
  simp only [takeable, Bool.and_eq_true, Bool.not_eq_true'] at h
  exact ⟨h.1.1.1, h.1.1.2, h.1.2⟩

/-- The accumulator after a conversion stays in its width. -/
theorem accumulated_ok {c : Config} {sum bias acc n : Nat} (h : accumulated c sum bias acc = .ok n)
    (hw : acc < 2 ^ c.accW) : n < 2 ^ c.accW := by
  unfold accumulated satAdd clamp0Sub at h
  split at h
  · simp only at h
    split at h
    · split at h
      · cases h
      · injection h with h
        split at h <;> omega
    · injection h with h; omega
  · injection h with h
    split at h <;> omega

/-- The sample-ready counter stays in its width. -/
theorem srcCounted_ok {c : Config} {src n : Nat} (h : srcCounted c src = .ok n)
    (hw : src < 2 ^ c.srcW) : n < 2 ^ c.srcW := by
  unfold srcCounted at h
  split at h
  · split at h
    · cases h
    · injection h with h; omega
  · injection h with h; omega

/-- The conversion handler: the window slides, the accumulator and the counter take their next values,
the selector turns, the flag clears. -/
theorem handleAdc_next {s t : State} (h : handleAdc s = .next t) :
    ∃ acc n : Nat,
      accumulated s.cfg ((s.chan s.adcMux).slide s.adcData).sum.toNat
        ((s.chan s.adcMux).slide s.adcData).bias.toNat
        ((s.chan s.adcMux).slide s.adcData).acc.toNat = .ok acc ∧
      srcCounted s.cfg s.src.toNat = .ok n ∧
      t = { s.setChan s.adcMux { (s.chan s.adcMux).slide s.adcData with acc := BitVec.ofNat 32 acc } with
            src := BitVec.ofNat 32 n, adcMux := otherChannel s.adcMux, adcFlag := false } := by
  unfold handleAdc at h
  simp only at h
  split at h
  · cases h
  · split at h
    · cases h
    · injection h with h
      exact ⟨_, _, ‹_›, ‹_›, h.symm⟩

/-! Events. -/

theorem execEvAdcdone_next {x : Sample} {s t : State} (h : execEvAdcdone x s = .next t) :
    converterReady s = true ∧ (s.adcFlag = true → s.cfg.onOverrun = .hardware) ∧
      t = s.quiet.deliver x := by
  unfold execEvAdcdone at h
  split at h
  · refine ⟨‹_›, ?_⟩
    split at h
    · split at h
      · cases h
      · injection h with h; exact ⟨fun _ => ‹_›, h.symm⟩
    · injection h with h; exact ⟨fun hf => absurd hf ‹_›, h.symm⟩
  · cases h

theorem execEvWdtexp_next {a b c : Bool} {n : BitVec 16} {s t : State}
    (h : execEvWdtexp a b c n s = .next t) : s.ilkHalted = true ∧ t = s.resetTo true a b c n := by
  unfold execEvWdtexp at h
  split at h
  · injection h with h; exact ⟨‹_›, h.symm⟩
  · cases h

theorem illegalWord_next {s t : State} (h : illegalWord s = .next t) :
    s.cfg.onIllegal = .hardware ∧ ForegroundFree s ∧ t = { s.quiet with opErr := true } := by
  unfold illegalWord at h
  split at h
  · cases h
  · refine ⟨‹_›, ?_⟩
    split at h
    · cases h
    · injection h with h
      exact ⟨(operationRefusal_eq_none s).1 ‹_›, h.symm⟩

/-! The step. -/

/-- A step that answers a next state held, executed the next word of the trace, or presented an
illegal word. -/
theorem step_next {s t : State} (h : step s = .next t) :
    s.cfg.valid = true ∧
      ((s.trace = [] ∧ t = s.quiet) ∨
       (∃ w rest, s.trace = w :: rest ∧
        ((∃ i, decode w = .ok i ∧ exec i { s with trace := rest } = .next t) ∨
         (∃ e, decode w = .error e ∧ illegalWord { s with trace := rest } = .next t)))) := by
  unfold step at h
  split at h
  · refine ⟨‹_›, ?_⟩
    cases ht : s.trace with
    | nil =>
      simp only [State.fetch, ht] at h
      injection h with h
      exact .inl ⟨rfl, h.symm⟩
    | cons w rest =>
      simp only [State.fetch, ht] at h
      refine .inr ⟨w, rest, rfl, ?_⟩
      cases hd : decode w with
      | ok i => rw [hd] at h; exact .inl ⟨i, rfl, h⟩
      | error e => rw [hd] at h; exact .inr ⟨e, rfl, h⟩
  · cases h

end Sys2Proof.Machine
end

