-- ==== Sys2Proof/Laws/Clock.lean ====
section
/-! SUPPORT. The millisecond clock: the scaling is monotone, and `now_value` lies below `TB_MS_WRAP` while
the overflow counter holds a number of its width (spec/40_timebase.md R134). -/

namespace Sys2Proof.Machine

theorem Config.scaled_mono (c : Config) {m n : Nat} (h : m ≤ n) : c.scaled m ≤ c.scaled n :=
  Nat.div_le_div_right (Nat.mul_le_mul_right _ h)

theorem Config.scaled_lt_msWrap (c : Config) {n : Nat} (h : n < 2 ^ (c.ovfW + 16)) :
    c.scaled n < c.msWrap := by
  have := Config.scaled_mono c (show n ≤ 2 ^ (c.ovfW + 16) - 1 by omega)
  unfold Config.msWrap
  omega

theorem wrapW_lt (w x : Nat) : wrapW w x < 2 ^ w := Nat.mod_lt _ (Nat.two_pow_pos w)

theorem correctedOvf_lt {s : State} (h : s.tbOvf.toNat < 2 ^ s.cfg.ovfW) :
    correctedOvf s < 2 ^ s.cfg.ovfW := by
  unfold correctedOvf
  split
  · exact wrapW_lt _ _
  · exact h

theorem combinedCount_lt {s : State} (h : s.tbOvf.toNat < 2 ^ s.cfg.ovfW) :
    combinedCount s < 2 ^ (s.cfg.ovfW + 16) := by
  have h1 := correctedOvf_lt h
  have h2 := s.tbCnt.isLt
  have h3 : 2 ^ (s.cfg.ovfW + 16) = 2 ^ s.cfg.ovfW * 65536 := by rw [Nat.pow_add]
  unfold combinedCount
  omega

/-- The clock lies below `TB_MS_WRAP` (R134). -/
theorem nowValue_lt {s : State} (h : s.tbOvf.toNat < 2 ^ s.cfg.ovfW) : nowValue s < s.cfg.msWrap :=
  Config.scaled_lt_msWrap _ (combinedCount_lt h)

/-- A number of a width of at most 32 bits survives being held in 32 bits. -/
theorem toNat_ofNat_of_lt {w n : Nat} (h : n < 2 ^ w) (hw : w ≤ 32) : (BitVec.ofNat 32 n).toNat = n := by
  have := Nat.pow_le_pow_right (n := 2) (by omega) hw
  simp only [BitVec.toNat_ofNat]
  exact Nat.mod_eq_of_lt (by omega)

theorem toNat_ofNat_lt {n b : Nat} (h : n < b) : (BitVec.ofNat 32 n).toNat < b := by
  have := Nat.mod_le n (2 ^ 32)
  rw [BitVec.toNat_ofNat]
  omega

end Sys2Proof.Machine
end

