-- ==== Sys2Proof/Laws/Encoding.lean ====
section
/-! SUPPORT. The fields of a packed word, and the operands the small fields carry (spec/30_encoding.md R100,
R101). -/

namespace Sys2Proof

@[simp] theorem fieldOp_packWord (op a : BitVec 8) (d : BitVec 32) : fieldOp (packWord op a d) = op := by
  ext i h
  simp only [fieldOp, packWord, BitVec.getElem_extractLsb', BitVec.getLsbD_or, BitVec.getLsbD_shiftLeft,
    BitVec.getLsbD_setWidth, show 40 + i - 40 = i by omega, show ¬40 + i < 40 by omega,
    show ¬40 + i < 32 by omega, show 40 + i < 48 by omega, show i < 48 by omega, decide_true, decide_false,
    Bool.not_false, Bool.true_and]
  rw [BitVec.getLsbD_of_ge a _ (by omega), BitVec.getLsbD_of_ge d _ (by omega), BitVec.getLsbD_eq_getElem h]
  simp

@[simp] theorem fieldA_packWord (op a : BitVec 8) (d : BitVec 32) : fieldA (packWord op a d) = a := by
  ext i h
  simp only [fieldA, packWord, BitVec.getElem_extractLsb', BitVec.getLsbD_or, BitVec.getLsbD_shiftLeft,
    BitVec.getLsbD_setWidth, show 32 + i - 32 = i by omega, show 32 + i < 40 by omega,
    show ¬32 + i < 32 by omega, show 32 + i < 48 by omega, show i < 48 by omega, decide_true, decide_false,
    Bool.not_false, Bool.not_true, Bool.true_and, Bool.false_and, Bool.and_false, Bool.false_or]
  rw [BitVec.getLsbD_of_ge d _ (by omega), BitVec.getLsbD_eq_getElem h]
  simp

@[simp] theorem fieldD_packWord (op a : BitVec 8) (d : BitVec 32) : fieldD (packWord op a d) = d := by
  ext i h
  simp only [fieldD, packWord, BitVec.getElem_extractLsb', BitVec.getLsbD_or, BitVec.getLsbD_shiftLeft,
    BitVec.getLsbD_setWidth, show 0 + i = i by omega, show i < 40 by omega, show i < 32 by omega,
    show i < 48 by omega, decide_true, Bool.not_true, Bool.true_and, Bool.false_and, Bool.and_false,
    Bool.false_or]
  exact BitVec.getLsbD_eq_getElem h

/-- A word is its three fields. -/
theorem packWord_fields (w : TraceWord) : packWord (fieldOp w) (fieldA w) (fieldD w) = w := by
  ext i h
  rw [← BitVec.getLsbD_eq_getElem h, ← BitVec.getLsbD_eq_getElem h]
  simp only [fieldA, fieldD, fieldOp, packWord, BitVec.getLsbD_or, BitVec.getLsbD_shiftLeft,
    BitVec.getLsbD_setWidth, BitVec.getLsbD_extractLsb']
  by_cases h1 : i < 32
  · simp [h1, show i < 40 by omega, h]
  · by_cases h2 : i < 40
    · simp [h1, h2, h, show i - 32 < 8 by omega, show i - 32 < 48 by omega, show 32 + (i - 32) = i by omega]
    · simp [h1, h2, h, show ¬i - 32 < 8 by omega, show i - 40 < 8 by omega, show i - 40 < 48 by omega,
        show 40 + (i - 40) = i by omega]

/-- Masking a packed word masks its fields. -/
theorem packWord_and (op a mo ma : BitVec 8) (d md : BitVec 32) :
    packWord op a d &&& packWord mo ma md = packWord (op &&& mo) (a &&& ma) (d &&& md) := by
  have inj : ∀ v w : TraceWord, fieldOp v = fieldOp w → fieldA v = fieldA w → fieldD v = fieldD w → v = w :=
    fun v w h1 h2 h3 => by rw [← packWord_fields v, ← packWord_fields w, h1, h2, h3]
  have hand : ∀ (v w : TraceWord) (m n : Nat), (v &&& w).extractLsb' m n =
      v.extractLsb' m n &&& w.extractLsb' m n := fun v w m n => by ext; simp
  apply inj
  · exact ((hand _ _ 40 8).trans (congrArg₂ (· &&& ·) (fieldOp_packWord op a d)
      (fieldOp_packWord mo ma md))).trans (fieldOp_packWord _ _ _).symm
  · exact ((hand _ _ 32 8).trans (congrArg₂ (· &&& ·) (fieldA_packWord op a d)
      (fieldA_packWord mo ma md))).trans (fieldA_packWord _ _ _).symm
  · exact ((hand _ _ 0 32).trans (congrArg₂ (· &&& ·) (fieldD_packWord op a d)
      (fieldD_packWord mo ma md))).trans (fieldD_packWord _ _ _).symm

/-- A word decodes by its fields. -/
@[simp] theorem decode_packWord (op a : BitVec 8) (d : BitVec 32) :
    decode (packWord op a d) = decodeFields op a d := by
  simp [decode]

/-! The one-bit operands. -/

@[simp] theorem bitInA_zero (b : Bool) : (bitInA b)[0] = b := by cases b <;> rfl
@[simp] theorem bitInA_high (b : Bool) : (bitInA b).extractLsb' 1 7 = 0 := by cases b <;> rfl
@[simp] theorem channelOfBit_bit (c : Channel) : channelOfBit c.bit = c := by cases c <;> rfl

@[simp] theorem resetBitsInA_zero (h o l : Bool) : (resetBitsInA h o l)[0] = h := by
  cases h <;> cases o <;> cases l <;> rfl
@[simp] theorem resetBitsInA_one (h o l : Bool) : (resetBitsInA h o l)[1] = o := by
  cases h <;> cases o <;> cases l <;> rfl
@[simp] theorem resetBitsInA_two (h o l : Bool) : (resetBitsInA h o l)[2] = l := by
  cases h <;> cases o <;> cases l <;> rfl
@[simp] theorem resetBitsInA_high (h o l : Bool) : (resetBitsInA h o l).extractLsb' 3 5 = 0 := by
  cases h <;> cases o <;> cases l <;> rfl

end Sys2Proof
end

