-- ==== Sys2Proof/Laws/PerInstr.lean ====
section
/-! SUPPORT. Statements about every instruction, made per instruction (LAWS.json). `MaskMatch`: the encoding
of an instruction, masked as its row of the opcode table says, is the row's match (spec/30_encoding.md
R109). -/

namespace Sys2Proof.Laws.MaskMatch

open Sys2Proof

/-- The encoding of an instruction is a word of its row (R109). -/
def Statement (i : Instr) : Prop := encode i &&& maskOf i = matchOf i

/-- The masks of the seven formats, by their fields (R109). -/
theorem mask_fields :
    (0xFFFFFFFFFFFF : TraceWord) = packWord 0xFF 0xFF 0xFFFFFFFF ∧
    (0xFFFEFFFFFFFF : TraceWord) = packWord 0xFF 0xFE 0xFFFFFFFF ∧
    (0xFF00FFFFFFFF : TraceWord) = packWord 0xFF 0x00 0xFFFFFFFF ∧
    (0xFFFF00000000 : TraceWord) = packWord 0xFF 0xFF 0x00000000 ∧
    (0xFFFFFFFFFC00 : TraceWord) = packWord 0xFF 0xFF 0xFFFFFC00 ∧
    (0xFFF8FFFF0000 : TraceWord) = packWord 0xFF 0xF8 0xFFFF0000 := by decide

/-- A duration or repeat count is masked away (format D). -/
theorem formatD_masked (op : BitVec 8) (d : BitVec 32) :
    packWord op 0 d &&& 0xFFFF00000000 = packWord op 0 0 := by
  rw [mask_fields.2.2.2.1, packWord_and]
  congr 1
  · exact BitVec.and_allOnes (x := op)
  · exact BitVec.and_zero

/-- A round count is masked away (format R). -/
theorem formatR_masked (op a : BitVec 8) :
    packWord op a 0 &&& 0xFF00FFFFFFFF = packWord op 0 0 := by
  rw [mask_fields.2.2.1, packWord_and]
  congr 1
  · exact BitVec.and_allOnes (x := op)
  · exact BitVec.and_zero

/-- A channel or level is masked away (formats C and L). -/
theorem formatL_masked (op : BitVec 8) (b : Bool) :
    packWord op (bitInA b) 0 &&& 0xFFFEFFFFFFFF = packWord op 0 0 := by
  rw [mask_fields.2.1, packWord_and]
  congr 1
  · exact BitVec.and_allOnes (x := op)
  · cases b <;> rfl

/-- A sample is masked away (format S). -/
theorem formatS_masked (op : BitVec 8) (x : Sample) :
    packWord op 0 (x.setWidth 32) &&& 0xFFFFFFFFFC00 = packWord op 0 0 := by
  rw [mask_fields.2.2.2.2.1, packWord_and]
  congr 1
  · exact BitVec.and_allOnes (x := op)
  · have key : ∀ i : Fin 32, (0xFFFFFC00 : BitVec 32)[i.val]'i.isLt = decide (10 ≤ i.val) := by decide
    ext i hi
    have := key ⟨i, hi⟩
    rw [BitVec.getElem_and, this, BitVec.getElem_setWidth]
    by_cases h10 : 10 ≤ i
    · rw [BitVec.getLsbD_of_ge x i h10]; simp
    · simp [h10]

/-- The draws of a reset word are masked away (format X). -/
theorem formatX_masked (op : BitVec 8) (h o l : Bool) (c : BitVec 16) :
    packWord op (resetBitsInA h o l) (c.setWidth 32) &&& 0xFFF8FFFF0000 = packWord op 0 0 := by
  rw [mask_fields.2.2.2.2.2, packWord_and]
  congr 1
  · exact BitVec.and_allOnes (x := op)
  · cases h <;> cases o <;> cases l <;> rfl
  · have key : ∀ i : Fin 32, (0xFFFF0000 : BitVec 32)[i.val]'i.isLt = decide (16 ≤ i.val) := by decide
    ext i hi
    have := key ⟨i, hi⟩
    rw [BitVec.getElem_and, this, BitVec.getElem_setWidth]
    by_cases h16 : 16 ≤ i
    · rw [BitVec.getLsbD_of_ge c i h16]; simp
    · simp [h16]

theorem tbStart : Statement .tbStart := by unfold Statement; decide
theorem tbStop : Statement .tbStop := by unfold Statement; decide
theorem tbNow : Statement .tbNow := by unfold Statement; decide
theorem tbTicknum : Statement .tbTicknum := by unfold Statement; decide
theorem tbMswait (n : BitVec 32) : Statement (.tbMswait n) :=
  (formatD_masked _ n).trans (show packWord 0x04 0 0 = 0x040000000000 by decide)
theorem tbTickwait : Statement .tbTickwait := by unfold Statement; decide
theorem tbRawstart (n : BitVec 32) : Statement (.tbRawstart n) :=
  (formatD_masked _ n).trans (show packWord 0x06 0 0 = 0x060000000000 by decide)
theorem tbRawended : Statement .tbRawended := by unfold Statement; decide
theorem tbRawwait (n : BitVec 32) : Statement (.tbRawwait n) :=
  (formatD_masked _ n).trans (show packWord 0x08 0 0 = 0x080000000000 by decide)
theorem adcStart : Statement .adcStart := by unfold Statement; decide
theorem adcStop : Statement .adcStop := by unfold Statement; decide
theorem adcIsupdated (a : BitVec 8) : Statement (.adcIsupdated a) :=
  (formatR_masked _ a).trans (show packWord 0x12 0 0 = 0x120000000000 by decide)
theorem adcCalbias (c : Channel) : Statement (.adcCalbias c) :=
  (formatL_masked _ c.bit).trans (show packWord 0x13 0 0 = 0x130000000000 by decide)
theorem adcReading (c : Channel) : Statement (.adcReading c) :=
  (formatL_masked _ c.bit).trans (show packWord 0x14 0 0 = 0x140000000000 by decide)
theorem adcAcccharge : Statement .adcAcccharge := by unfold Statement; decide
theorem ocTripped : Statement .ocTripped := by unfold Statement; decide
theorem ocPending : Statement .ocPending := by unfold Statement; decide
theorem ocClear : Statement .ocClear := by unfold Statement; decide
theorem ocArm : Statement .ocArm := by unfold Statement; decide
theorem lpTripped : Statement .lpTripped := by unfold Statement; decide
theorem lpPending : Statement .lpPending := by unfold Statement; decide
theorem lpClear : Statement .lpClear := by unfold Statement; decide
theorem lpArm : Statement .lpArm := by unfold Statement; decide
theorem pwrOn : Statement .pwrOn := by unfold Statement; decide
theorem pwrOff : Statement .pwrOff := by unfold Statement; decide
theorem lrstAssert : Statement .lrstAssert := by unfold Statement; decide
theorem lrstRelease : Statement .lrstRelease := by unfold Statement; decide
theorem sysIrqen : Statement .sysIrqen := by unfold Statement; decide
theorem sysIrqdis : Statement .sysIrqdis := by unfold Statement; decide
theorem sysSleep : Statement .sysSleep := by unfold Statement; decide
theorem sysHalt : Statement .sysHalt := by unfold Statement; decide
theorem wdtKick : Statement .wdtKick := by unfold Statement; decide
theorem lampPoll : Statement .lampPoll := by unfold Statement; decide
theorem evCount (n : BitVec 32) : Statement (.evCount n) :=
  (formatD_masked _ n).trans (show packWord 0xE0 0 0 = 0xE00000000000 by decide)
theorem evAdcdone (x : Sample) : Statement (.evAdcdone x) :=
  (formatS_masked _ x).trans (show packWord 0xE1 0 0 = 0xE10000000000 by decide)
theorem evOc (l : Bool) : Statement (.evOc l) :=
  (formatL_masked _ l).trans (show packWord 0xE2 0 0 = 0xE20000000000 by decide)
theorem evLp (l : Bool) : Statement (.evLp l) :=
  (formatL_masked _ l).trans (show packWord 0xE3 0 0 = 0xE30000000000 by decide)
theorem evLamp (l : Bool) : Statement (.evLamp l) :=
  (formatL_masked _ l).trans (show packWord 0xE4 0 0 = 0xE40000000000 by decide)
theorem evWdtexp (h o l : Bool) (c : BitVec 16) : Statement (.evWdtexp h o l c) :=
  (formatX_masked _ h o l c).trans (show packWord 0xE5 0 0 = 0xE50000000000 by decide)
theorem evPor (h o l : Bool) (c : BitVec 16) : Statement (.evPor h o l c) :=
  (formatX_masked _ h o l c).trans (show packWord 0xE6 0 0 = 0xE60000000000 by decide)
theorem irqOc : Statement .irqOc := by unfold Statement; decide
theorem irqLp : Statement .irqLp := by unfold Statement; decide
theorem irqAdc : Statement .irqAdc := by unfold Statement; decide
theorem irqTov : Statement .irqTov := by unfold Statement; decide
theorem fgStep (n : BitVec 32) : Statement (.fgStep n) :=
  (formatD_masked _ n).trans (show packWord 0xEC 0 0 = 0xEC0000000000 by decide)

end Sys2Proof.Laws.MaskMatch
end

