-- ==== Sys2Proof/Laws/Ring.lean ====
section
/-! SUPPORT. The ring memory: reading after writing, writing leaves every other entry, and the sliding
window keeps the running sum equal to the sum of the ring (spec/10_state.md R40). -/

namespace Sys2Proof.Machine

@[simp] theorem ChannelAcc.entry_setEntry (a : ChannelAcc) (k : BitVec 4) (x : Sample) :
    (a.setEntry k x).entry k = x := by
  simp [ChannelAcc.entry, ChannelAcc.setEntry]

theorem ChannelAcc.entry_setEntry_ne (a : ChannelAcc) {j k : BitVec 4} (x : Sample) (h : j ≠ k) :
    (a.setEntry k x).entry j = a.entry j := by
  have hne : k.toNat ≠ j.toNat := fun e => h (BitVec.eq_of_toNat_eq e.symm)
  simp [ChannelAcc.entry, ChannelAcc.setEntry, hne]

theorem ChannelAcc.entry_slide (a : ChannelAcc) (x : Sample) (j : BitVec 4) :
    (a.slide x).entry j = if j = a.cur then x else a.entry j := by
  have : (a.slide x).entry j = (a.setEntry a.cur x).entry j := rfl
  rw [this]
  split
  · subst j; exact a.entry_setEntry _ x
  · exact a.entry_setEntry_ne x ‹_›

@[simp] theorem ChannelAcc.slide_cur (a : ChannelAcc) (x : Sample) : (a.slide x).cur = a.cur + 1 := rfl
@[simp] theorem ChannelAcc.slide_bias (a : ChannelAcc) (x : Sample) : (a.slide x).bias = a.bias := rfl
@[simp] theorem ChannelAcc.slide_acc (a : ChannelAcc) (x : Sample) : (a.slide x).acc = a.acc := rfl

theorem sum_map_set (l : List Sample) (i : Nat) (x : Sample) (h : i < l.length) :
    ((l.set i x).map BitVec.toNat).sum + l[i].toNat = (l.map BitVec.toNat).sum + x.toNat := by
  induction l generalizing i with
  | nil => simp at h
  | cons y ys ih =>
    cases i with
    | zero => simp; omega
    | succ i =>
      have := ih i (by simpa using h)
      simp only [List.set_cons_succ, List.map_cons, List.sum_cons, List.getElem_cons_succ]
      omega

/-- Writing one entry moves the sum of the ring by the difference. -/
theorem ringSum_setEntry (a : ChannelAcc) (k : BitVec 4) (x : Sample) :
    ringSum (a.setEntry k x) + (a.entry k).toNat = ringSum a + x.toNat := by
  have h : k.toNat < a.ring.toList.length := by simpa using k.isLt
  have := sum_map_set a.ring.toList k.toNat x h
  simpa [ringSum, ChannelAcc.setEntry, ChannelAcc.entry, Vector.toList_set] using this

theorem sum_map_le (l : List Sample) : (l.map BitVec.toNat).sum ≤ 1023 * l.length := by
  induction l with
  | nil => simp
  | cons y ys ih =>
    have := y.isLt
    simp only [List.map_cons, List.sum_cons, List.length_cons]
    omega

/-- The sum of a ring is at most 16 * 1023 (R38). -/
theorem ringSum_le (a : ChannelAcc) : ringSum a ≤ 16368 := by
  have := sum_map_le a.ring.toList
  simpa [ringSum] using this

/-- One entry is at most the sum of the ring. -/
theorem entry_le_ringSum (a : ChannelAcc) (k : BitVec 4) : (a.entry k).toNat ≤ ringSum a := by
  have := ringSum_setEntry a k 0
  have h0 : (0 : Sample).toNat = 0 := rfl
  omega

/-- The sliding window keeps the running sum equal to the sum of the ring (R40). -/
theorem slide_sum (a : ChannelAcc) (x : Sample) (h : a.sum.toNat = ringSum a) :
    (a.slide x).sum.toNat = ringSum (a.slide x) := by
  have h1 := ringSum_setEntry a a.cur x
  have h2 := entry_le_ringSum a a.cur
  have h3 := ringSum_le a
  have h4 := ringSum_le (a.setEntry a.cur x)
  have h5 : ringSum (a.slide x) = ringSum (a.setEntry a.cur x) := rfl
  have hx := x.isLt
  have he := (a.entry a.cur).isLt
  rw [h5]
  simp only [ChannelAcc.slide, BitVec.toNat_add, BitVec.toNat_sub, BitVec.toNat_setWidth]
  omega

theorem ringSum_reset : ringSum ChannelAcc.reset = 0 := by decide

end Sys2Proof.Machine
end

