-- ==== Sys2Proof/Laws/Trace.lean ====
section
/-! SUPPORT. What executing a trace can do: one equation per answer of the first word's step, and the
inversion that says at which word a refusal or a fault arose; and the equations of the host's run. -/

namespace Sys2Proof.Machine

@[simp] theorem executeFrom_nil (k : Nat) (s : State) :
    executeFrom k [] s = .completed { s with trace := [] } := rfl

theorem executeFrom_of_next {w : TraceWord} {rest : List TraceWord} {s t : State}
    (h : step { s with trace := w :: rest } = .next t) (k : Nat) :
    executeFrom k (w :: rest) s = executeFrom (k + 1) rest t := by simp only [executeFrom, h]

theorem executeFrom_of_fault {w : TraceWord} {rest : List TraceWord} {s : State} {f : Fault}
    (h : step { s with trace := w :: rest } = .fault f) (k : Nat) :
    executeFrom k (w :: rest) s = .faulted k w f := by simp only [executeFrom, h]

theorem executeFrom_of_refused {w : TraceWord} {rest : List TraceWord} {s : State} {r : Refusal}
    (h : step { s with trace := w :: rest } = .refused r) (k : Nat) :
    executeFrom k (w :: rest) s = .refused k w r := by simp only [executeFrom, h]

/-- A refusal arose at the first word, or after it had its step. -/
theorem executeFrom_refused {k j : Nat} {w v : TraceWord} {rest : List TraceWord} {s : State} {r : Refusal}
    (h : executeFrom k (w :: rest) s = .refused j v r) :
    (step { s with trace := w :: rest } = .refused r ∧ j = k ∧ v = w) ∨
    (∃ t, step { s with trace := w :: rest } = .next t ∧ executeFrom (k + 1) rest t = .refused j v r) := by
  cases e : step { s with trace := w :: rest } with
  | next t => exact .inr ⟨t, rfl, executeFrom_of_next e k ▸ h⟩
  | fault f => rw [executeFrom_of_fault e k] at h; cases h
  | refused q => rw [executeFrom_of_refused e k] at h; cases h; exact .inl ⟨rfl, rfl, rfl⟩

/-- A fault arose at the first word, or after it had its step. -/
theorem executeFrom_faulted {k j : Nat} {w v : TraceWord} {rest : List TraceWord} {s : State} {f : Fault}
    (h : executeFrom k (w :: rest) s = .faulted j v f) :
    (step { s with trace := w :: rest } = .fault f ∧ j = k ∧ v = w) ∨
    (∃ t, step { s with trace := w :: rest } = .next t ∧ executeFrom (k + 1) rest t = .faulted j v f) := by
  cases e : step { s with trace := w :: rest } with
  | next t => exact .inr ⟨t, rfl, executeFrom_of_next e k ▸ h⟩
  | fault g => rw [executeFrom_of_fault e k] at h; cases h; exact .inl ⟨rfl, rfl, rfl⟩
  | refused q => rw [executeFrom_of_refused e k] at h; cases h

/-- A trace completes word by word. -/
theorem executeFrom_completed {k : Nat} {w : TraceWord} {rest : List TraceWord} {s u : State}
    (h : executeFrom k (w :: rest) s = .completed u) :
    ∃ t, step { s with trace := w :: rest } = .next t ∧ executeFrom (k + 1) rest t = .completed u := by
  cases e : step { s with trace := w :: rest } with
  | next t => exact ⟨t, rfl, executeFrom_of_next e k ▸ h⟩
  | fault g => rw [executeFrom_of_fault e k] at h; cases h
  | refused q => rw [executeFrom_of_refused e k] at h; cases h

/-- A trace is ill-formed exactly when its execution is refused at some word (R106). -/
theorem traceWellFormed_eq_false (ws : List TraceWord) (s : State) :
    traceWellFormed ws s = false ↔ ∃ k w r, executeTrace ws s = .refused k w r := by
  unfold traceWellFormed
  cases executeTrace ws s <;> simp

/-! The run of the machine, one step at a time. -/

theorem run_of_next {M : Host.Core} {s t : M.State} (h : M.step s = .next t) (k : Nat) :
    M.run (k + 1) s = M.run k t := by simp only [Host.Core.run, h]

theorem run_of_fault {M : Host.Core} {s : M.State} {f : M.Fault} (h : M.step s = .fault f) (k : Nat) :
    M.run (k + 1) s = .fault f := by simp only [Host.Core.run, h]

theorem run_of_refused {M : Host.Core} {s : M.State} {r : M.Refusal} (h : M.step s = .refused r) (k : Nat) :
    M.run (k + 1) s = .refused r := by simp only [Host.Core.run, h]

end Sys2Proof.Machine
end

