-- ==== Sys2Proof/Tests/Slice0.lean ====
section
/-! SUPPORT. Tests on fixed values, taken from spec/95_test_vectors.md (the vector's id is in each
docstring) or computed by hand from a rule, and a witness for the hypotheses of each statement. -/

namespace Sys2Proof.Tests

open Sys2Proof Sys2Proof.Machine

/- One test after another: each is a kernel evaluation, and every thread that waits for one holds a
stack of its own (scoped to this namespace). -/
set_option Elab.async false

/-! Start states. -/

/-- Test-master mode: the values of reset with the strap set (95_test_vectors, notation). -/
def master : State := { State.reset with seqHold := true }

/-- The steady-state base SSB of 95_test_vectors section 2.5, at position `p`. -/
def steady (p : Position) : State :=
  { State.reset with
    gie := true, adcEn := true, adcIe := true, tovIe := true, ocIe := true, lpIe := true,
    pwrEn := true, lampRst := false,
    chan0 := { ChannelAcc.reset with ring := Vector.replicate 16 512, sum := 8192, bias := 8192 },
    chan1 := { ChannelAcc.reset with ring := Vector.replicate 16 700, sum := 11200 },
    ilkState := p.state, ilkPhase := p.phase }

/-- Test-master mode with a conversion complete: channel 0, the given sample, bias and accumulator. -/
def converted (x : Sample) (bias : BitVec 16) (acc : BitVec 32) : State :=
  { master with
    gie := true, adcEn := true, adcIe := true, adcFlag := true, adcData := x,
    chan0 := { ChannelAcc.reset with bias := bias, acc := acc } }

/-- A halted block: SD.2, FC5 (vector X6). -/
def halted : State :=
  { State.reset with
    ilkState := 5, ilkPhase := 2, ilkFc := 5, ilkHalted := true,
    adcEn := true, adcIe := true, tovIe := true }

/-- What `f` reads of the state after a step, none where the step stops. -/
def after {α : Type} (r : StepResult) (f : State → α) : Option α :=
  match r with
  | .next t => some (f t)
  | .fault _ => none
  | .refused _ => none

/-- The refusal a step answers, none for any other answer. -/
def refusal (r : StepResult) : Option Refusal :=
  match r with
  | .next _ => none
  | .fault _ => none
  | .refused x => some x

/-- The fault a step answers, none for any other answer. -/
def faultOf (r : StepResult) : Option Fault :=
  match r with
  | .next _ => none
  | .fault x => some x
  | .refused _ => none

theorem next_of_after {α : Type} {r : StepResult} {f : State → α} {v : α} (h : after r f = some v) :
    ∃ t, r = .next t ∧ f t = v := by
  cases r with
  | next t => exact ⟨t, rfl, Option.some.inj h⟩
  | fault _ => cases h
  | refused _ => cases h

/-! WellFormed: one ill-formed operand for each check (R102, R107), and the largest well-formed one. -/

theorem test_wellFormed_refuses_count_zero : Instr.wellFormed Config.ref (.evCount 0) = false := by decide
theorem test_wellFormed_refuses_fgStep_zero : Instr.wellFormed Config.ref (.fgStep 0) = false := by decide
theorem test_wellFormed_refuses_mswait_at_wrap :
    Instr.wellFormed Config.ref (.tbMswait 4096000) = false := by decide +kernel
theorem test_wellFormed_refuses_rawstart_at_wrap :
    Instr.wellFormed Config.ref (.tbRawstart 4096000) = false := by decide +kernel
theorem test_wellFormed_refuses_rawwait_at_wrap :
    Instr.wellFormed Config.ref (.tbRawwait 4096000) = false := by decide +kernel
theorem test_wellFormed_admits_below_wrap :
    Instr.wellFormed Config.ref (.tbMswait 4095999) = true ∧
    Instr.wellFormed Config.ref (.evCount 1) = true := by decide +kernel
theorem test_ref_is_valid : Config.ref.valid = true := by decide +kernel

/-! Decoding: every constructor from a word written out from 30_encoding R100 to R104 (`op` in the top
byte, then `a`, then `d`). -/

theorem test_decode_timebase :
    decode 0x000000000000 = .ok .tbStart ∧ decode 0x010000000000 = .ok .tbStop ∧
    decode 0x020000000000 = .ok .tbNow ∧ decode 0x030000000000 = .ok .tbTicknum ∧
    decode 0x0400000000FA = .ok (.tbMswait 250) ∧ decode 0x050000000000 = .ok .tbTickwait ∧
    decode 0x060000000100 = .ok (.tbRawstart 256) ∧ decode 0x070000000000 = .ok .tbRawended ∧
    decode 0x0800000007D0 = .ok (.tbRawwait 2000) := by decide +kernel

theorem test_decode_adc :
    decode 0x100000000000 = .ok .adcStart ∧ decode 0x110000000000 = .ok .adcStop ∧
    decode 0x122000000000 = .ok (.adcIsupdated 32) ∧ decode 0x130000000000 = .ok (.adcCalbias .ch0) ∧
    decode 0x130100000000 = .ok (.adcCalbias .ch1) ∧ decode 0x140000000000 = .ok (.adcReading .ch0) ∧
    decode 0x140100000000 = .ok (.adcReading .ch1) ∧
    decode 0x150000000000 = .ok .adcAcccharge := by decide +kernel

theorem test_decode_detectors :
    decode 0x200000000000 = .ok .ocTripped ∧ decode 0x210000000000 = .ok .ocPending ∧
    decode 0x220000000000 = .ok .ocClear ∧ decode 0x230000000000 = .ok .ocArm ∧
    decode 0x300000000000 = .ok .lpTripped ∧ decode 0x310000000000 = .ok .lpPending ∧
    decode 0x320000000000 = .ok .lpClear ∧ decode 0x330000000000 = .ok .lpArm := by decide +kernel

theorem test_decode_system :
    decode 0x400000000000 = .ok .pwrOn ∧ decode 0x410000000000 = .ok .pwrOff ∧
    decode 0x420000000000 = .ok .lrstAssert ∧ decode 0x430000000000 = .ok .lrstRelease ∧
    decode 0x440000000000 = .ok .sysIrqen ∧ decode 0x450000000000 = .ok .sysIrqdis ∧
    decode 0x460000000000 = .ok .sysSleep ∧ decode 0x470000000000 = .ok .sysHalt ∧
    decode 0x480000000000 = .ok .wdtKick ∧ decode 0x490000000000 = .ok .lampPoll := by decide +kernel

theorem test_decode_events :
    decode 0xE00000010000 = .ok (.evCount 65536) ∧ decode 0xE100000003FF = .ok (.evAdcdone 1023) ∧
    decode 0xE20100000000 = .ok (.evOc true) ∧ decode 0xE30100000000 = .ok (.evLp true) ∧
    decode 0xE40100000000 = .ok (.evLamp true) ∧
    decode 0xE5050000FFFF = .ok (.evWdtexp true false true 65535) ∧
    decode 0xE60200000000 = .ok (.evPor false true false 0) ∧
    decode 0xE80000000000 = .ok .irqOc ∧ decode 0xE90000000000 = .ok .irqLp ∧
    decode 0xEA0000000000 = .ok .irqAdc ∧ decode 0xEB0000000000 = .ok .irqTov ∧
    decode 0xEC0000000003 = .ok (.fgStep 3) := by decide +kernel

/-- E20 to E30: the illegal words. -/
theorem test_decode_illegal :
    decode 0x090000000000 = .error (.reservedOpcode 0x09) ∧
    decode 0x500000000000 = .error (.reservedOpcode 0x50) ∧
    decode 0xE70000000000 = .error (.reservedOpcode 0xE7) ∧
    decode 0x020000000001 = .error (.operandBits 0x02) ∧
    decode 0x140200000000 = .error (.operandBits 0x14) ∧
    decode 0x120000000001 = .error (.operandBits 0x12) ∧
    decode 0x040100000000 = .error (.operandBits 0x04) ∧
    decode 0xE10000000400 = .error (.operandBits 0xE1) ∧
    decode 0xE60800000000 = .error (.operandBits 0xE6) ∧
    decode 0xE60000010000 = .error (.operandBits 0xE6) ∧
    decode 0xFFFFFFFFFFFF = .error (.reservedOpcode 0xFF) := by decide +kernel

/-- E2, E14, E17 the other way. -/
theorem test_encode_words :
    encode (.tbMswait 250) = 0x0400000000FA ∧ encode (.evOc true) = 0xE20100000000 ∧
    encode (.evWdtexp true false true 65535) = 0xE5050000FFFF := by decide +kernel

theorem test_decodeTableWord :
    decodeTableWord 48 0x122000000000 = some (.adcIsupdated 32) ∧
    decodeTableWord 48 0x090000000000 = none := by decide +kernel

/-- R106: the text of a word and the word of a text. -/
theorem test_assembly :
    asmText (.evPor false true false 0) = "EV.POR hold=0 oc=1 lp=0 cnt=0" ∧
    assembleWord "TB.MSWAIT" [250] = some (.tbMswait 250) ∧
    assembleWord "ADC.READING" [2] = none ∧
    assembleLine "ILK.CUT" [] = some [.pwrOff, .sysHalt] := by decide +kernel

/-- A word placed by `withFetchWord` is the instruction the next step runs. -/
theorem test_withFetchWord :
    after (step (State.reset.withFetchWord 48 0x400000000000)) (·.pwrEn) = some true ∧
    after (step (State.reset.withFetchWord 48 0xEC0000000001)) (·.ilkState) = some 1 :=
  by decide +kernel

/-! Time base, one step each (vectors T1 to T19). -/

/-- T6: the issue. -/
theorem test_tbStart :
    after (exec .tbStart { master with tbCnt := 65520, tbOvf := 7, tovIe := true })
      (fun t => (t.tovIe, t.wKind, t.tbOvf, t.tbCnt)) = some (false, 1, 7, 65520) := by decide +kernel

/-- T6b: the second poll, after the wrap. -/
theorem test_tbStart_poll :
    after (exec (.fgStep 1) { master with tovFlag := true, tbOvf := 7, wKind := 1 })
      (fun t => (t.tbOvf, t.tovFlag, t.tovIe, t.wKind)) = some (0, false, true, 0) := by decide +kernel

/-- T7. -/
theorem test_tbStop :
    after (exec .tbStop { master with tovIe := true, tbOvf := 9, tbCnt := 77, tovFlag := true })
      (fun t => (t.tovIe, t.tbOvf, t.tbCnt, t.tovFlag)) = some (false, 9, 77, true) := by decide +kernel

/-- T1: corrected below the boundary, not at it. -/
theorem test_tbNow :
    after (exec .tbNow { master with tbOvf := 3, tbCnt := 5, tovFlag := true })
      (fun t => t.res) = some 250 ∧
    after (exec .tbNow { master with tbOvf := 3, tbCnt := 65534, tovFlag := true })
      (fun t => t.res) = some 312 ∧
    after (exec .tbNow { master with tbOvf := 3, tbCnt := 65535, tovFlag := true })
      (fun t => t.res) = some 249 := by decide +kernel

/-- T1: the last value, and the corrected count wrapping to 0. -/
theorem test_tbNow_edges :
    after (exec .tbNow { master with tbOvf := 65535, tbCnt := 65535 }) (fun t => t.res) = some 4095999 ∧
    after (exec .tbNow { master with tbOvf := 65535, tbCnt := 10, tovFlag := true })
      (fun t => t.res) = some 0 := by decide +kernel

/-- T8: raw, no correction. -/
theorem test_tbTicknum :
    after (exec .tbTicknum { master with tbOvf := 4, tovFlag := true })
      (fun t => t.res) = some 4 := by decide +kernel

/-- T9, T13: without and with the wrap, `d = room` exactly. -/
theorem test_tbMswait :
    after (exec (.tbMswait 250) { master with tbOvf := 16 })
      (fun t => (t.wKind, t.wT0, t.wTarget)) = some (2, 1000, 1250) ∧
    after (exec (.tbMswait 100) { master with tbOvf := 65534, tbCnt := 26215 })
      (fun t => (t.wKind, t.wRem)) = some (3, 0) := by decide +kernel

/-- T10b: after the clock wraps the poll re-issues with the remaining 150 ms. -/
theorem test_tbMswait_poll :
    after (exec (.fgStep 1) { master with tbCnt := 26215, wKind := 3, wT0 := 4095900, wRem := 150 })
      (fun t => (t.wKind, t.wT0, t.wTarget, t.wRem)) = some (2, 25, 175, 150) := by decide +kernel

/-- T14: the issue and the ending poll. -/
theorem test_tbTickwait :
    after (exec .tbTickwait { master with tbOvf := 9 }) (fun t => (t.wKind, t.wT0)) = some (4, 9) ∧
    after (exec (.fgStep 1) { master with tbOvf := 10, wKind := 4, wT0 := 9 })
      (fun t => t.wKind) = some 0 := by decide +kernel

/-- T15: the pending overflow is counted first. -/
theorem test_tbRawstart :
    after (exec (.tbRawstart 256) { master with tbOvf := 2, tbCnt := 100, tovFlag := true })
      (fun t => (t.tovFlag, t.tbOvf, t.rawT0, t.rawDur)) = some (false, 3, 187, 256) :=
  by decide +kernel

/-- T16, T16b. -/
theorem test_tbRawended :
    after (exec .tbRawended { master with tbOvf := 4, tbCnt := 6144, rawDur := 256 })
      (fun t => t.res) = some 0 ∧
    after (exec .tbRawended { master with tbOvf := 3, tbCnt := 7200, tovFlag := true, rawDur := 256 })
      (fun t => (t.res, t.tbOvf, t.tovFlag)) = some (1, 4, false) := by decide +kernel

/-- T17b, T17c: the window across the wrap of the clock. -/
theorem test_tbRawended_across_wrap :
    after (exec .tbRawended { master with tbOvf := 3, rawT0 := 4095000, rawDur := 1200 })
      (fun t => t.res) = some 0 ∧
    after (exec .tbRawended { master with tbOvf := 4, rawT0 := 4095000, rawDur := 1200 })
      (fun t => t.res) = some 1 := by decide +kernel

/-- T18b: the issue, and the 32nd poll. -/
theorem test_tbRawwait :
    after (exec (.tbRawwait 2000) master) (fun t => (t.wKind, t.rawT0, t.rawDur)) = some (5, 0, 2000) ∧
    after (exec (.fgStep 1) { master with tbOvf := 31, tovFlag := true, wKind := 5, rawDur := 2000 })
      (fun t => (t.tbOvf, t.wKind, t.tovFlag)) = some (32, 0, false) := by decide +kernel

/-- T2, and X6's 70000 counts. -/
theorem test_evCount :
    after (exec (.evCount 3) { master with tbCnt := 65534 })
      (fun t => (t.tbCnt, t.tovFlag)) = some (1, true) ∧
    after (exec (.evCount 70000) halted)
      (fun t => (t.tbCnt, t.tovFlag)) = some (4464, true) := by decide +kernel

/-- T4, T5: the wrap of the overflow counter, and the refusal with interrupts off. -/
theorem test_irqTov :
    after (exec .irqTov { master with tbOvf := 65535, tovFlag := true, tovIe := true, gie := true })
      (fun t => (t.tbOvf, t.tovFlag)) = some (0, false) ∧
    refusal (exec .irqTov { master with tovFlag := true, tovIe := true }) = some .interruptNotTakeable :=
  by decide +kernel

/-! ADC engine (vectors A1 to A12). -/

/-- R162: a pending completion is discarded. -/
theorem test_adcStart :
    after (exec .adcStart { master with adcFlag := true, adcMux := .ch1 })
      (fun t => (t.adcEn, t.adcIe, t.adcFlag, t.adcMux)) = some (true, true, false, Channel.ch0) :=
  by decide +kernel

/-- A11. -/
theorem test_adcStop :
    after (exec .adcStop (converted 9 0 0))
      (fun t => (t.adcEn, t.adcIe, t.adcFlag, t.src)) = some (false, false, false, 0) :=
  by decide +kernel

/-- A1, A4, A11: a sample delivered, the overrun MF1, no converter step. -/
theorem test_evAdcdone :
    after (exec (.evAdcdone 512) { master with adcEn := true, adcIe := true })
      (fun t => (t.adcData, t.adcFlag)) = some (512, true) ∧
    faultOf (exec (.evAdcdone 2) { master with adcEn := true, adcFlag := true }) = some .conversionOverrun ∧
    refusal (exec (.evAdcdone 9) master) = some .converterIdle := by decide +kernel

/-- R261: the alternative treatment of MF1. -/
theorem test_evAdcdone_overrun_hardware :
    after (exec (.evAdcdone 2) { master with
        adcEn := true, adcFlag := true, adcData := 1,
        cfg := { Config.ref with onOverrun := .hardware } })
      (fun t => (t.adcData, t.adcFlag)) = some (2, true) := by decide +kernel

/-- A2b, A2e, A2g, A2h: rounding up, rounding to 0, the clamp, the subtraction. -/
theorem test_irqAdc_rounding :
    after (exec .irqAdc (converted 104 100 10)) (fun t => (t.chan0.sum, t.chan0.acc)) = some (104, 11) ∧
    after (exec .irqAdc (converted 97 100 10)) (fun t => (t.chan0.sum, t.chan0.acc)) = some (97, 10) ∧
    after (exec .irqAdc (converted 0 100 5)) (fun t => (t.chan0.sum, t.chan0.acc)) = some (0, 0) ∧
    after (exec .irqAdc (converted 0 100 20))
      (fun t => (t.chan0.sum, t.chan0.acc)) = some (0, 7) := by decide +kernel

/-- A1, A5, A6, A6b: the cursor, the counter and the selector; MF2; MF3 and one below it. -/
theorem test_irqAdc_effects :
    after (exec .irqAdc (converted 512 0 0))
      (fun t => [t.chan0.acc.toNat, t.chan0.cur.toNat, (t.ringAt .ch0 0).toNat,
        t.src.toNat, t.adcMux.bit.toNat, t.adcFlag.toNat]) =
        some [64, 1, 512, 1, 1, 0] ∧
    faultOf (exec .irqAdc { converted 0 0 0 with src := 255 }) = some .sampleCounterTop ∧
    faultOf (exec .irqAdc (converted 76 0 4294967285)) = some .accumulatorTop ∧
    after (exec .irqAdc (converted 75 0 4294967285))
      (fun t => t.chan0.acc) = some 4294967294 := by decide +kernel

/-- A5, A6, the hardware's values: `src` wraps to 0, `acc[0]` sticks. -/
theorem test_irqAdc_hardware_treatments :
    after (exec .irqAdc { converted 76 0 4294967285 with
        src := 255,
        cfg := { Config.ref with onSrcTop := .hardware, onAccTop := .hardware } })
      (fun t => (t.src, t.chan0.acc)) = some (0, 4294967295) := by decide +kernel

/-- A7a, A7c. -/
theorem test_adcIsupdated :
    after (exec (.adcIsupdated 17) { master with src := 32 }) (fun t => (t.res, t.src)) = some (0, 32) ∧
    after (exec (.adcIsupdated 16) { master with src := 40 })
      (fun t => (t.res, t.src)) = some (1, 8) := by decide +kernel

/-- A7d, A7e. -/
theorem test_adcIsupdated_edges :
    after (exec (.adcIsupdated 0) { master with src := 3 }) (fun t => (t.res, t.src)) = some (1, 3) ∧
    after (exec (.adcIsupdated 255) { master with src := 255 })
      (fun t => (t.res, t.src)) = some (0, 255) := by decide +kernel

/-- A8, A8b. -/
theorem test_adcCalbias :
    after (exec (.adcCalbias .ch0) { master with
        chan0 := { ChannelAcc.reset with sum := 8192, acc := 8704 },
        chan1 := { ChannelAcc.reset with sum := 11200, acc := 11904 }, src := 5 })
      (fun t => [t.chan0.bias.toNat, t.chan1.bias.toNat, t.chan0.acc.toNat,
        t.chan1.acc.toNat, t.src.toNat]) =
        some [8192, 0, 0, 11904, 0] ∧
    after (exec (.adcCalbias .ch1) { master with
        chan0 := { ChannelAcc.reset with sum := 8192, acc := 8704 },
        chan1 := { ChannelAcc.reset with sum := 11200, acc := 11904 }, src := 5 })
      (fun t => [t.chan0.bias.toNat, t.chan1.bias.toNat, t.chan0.acc.toNat,
        t.chan1.acc.toNat, t.src.toNat]) =
        some [0, 11200, 8704, 0, 0] := by decide +kernel

/-- A9b to A9d, A9f. -/
theorem test_adcReading :
    after (exec (.adcReading .ch0)
        { master with chan0 := { ChannelAcc.reset with sum := 8199, bias := 8192 } })
      (fun t => t.res) = some 0 ∧
    after (exec (.adcReading .ch0)
        { master with chan0 := { ChannelAcc.reset with sum := 8200, bias := 8192 } })
      (fun t => t.res) = some 1 ∧
    after (exec (.adcReading .ch0)
        { master with chan0 := { ChannelAcc.reset with sum := 8168, bias := 8192 } })
      (fun t => t.res) = some 0 ∧
    after (exec (.adcReading .ch0)
        { master with chan0 := { ChannelAcc.reset with sum := 16368, bias := 0 } })
      (fun t => t.res) = some 1023 := by decide +kernel

/-- A10. -/
theorem test_adcAcccharge :
    after (exec .adcAcccharge { master with
        chan0 := { ChannelAcc.reset with acc := 11 },
        chan1 := { ChannelAcc.reset with acc := 99 } })
      (fun t => t.res) = some 11 := by decide +kernel

/-! Detectors (vectors O1 to O12). -/

/-- O1, O2, O3. -/
theorem test_evOc :
    after (exec (.evOc true) master)
      (fun t => (t.ocLevel, t.ocPend, t.ocIe)) = some (true, true, false) ∧
    after (exec (.evOc true) { master with ocLevel := true }) (fun t => t.ocPend) = some false ∧
    after (exec (.evOc false) { master with ocLevel := true, ocPend := true })
      (fun t => (t.ocLevel, t.ocPend)) = some (false, true) := by decide +kernel

/-- O8. -/
theorem test_evLp :
    after (exec (.evLp true) master) (fun t => (t.lpLevel, t.lpPend)) = some (true, true) ∧
    after (exec (.evLp false) { master with lpLevel := true, lpPend := true })
      (fun t => (t.lpLevel, t.lpPend)) = some (false, true) := by decide +kernel

/-- O3 to O6. -/
theorem test_oc_operations :
    after (exec .ocTripped { master with ocPend := true }) (fun t => t.res) = some 0 ∧
    after (exec .ocPending { master with ocPend := true })
      (fun t => (t.res, t.ocPend)) = some (1, true) ∧
    after (exec .ocClear { master with ocPend := true, ocIe := true })
      (fun t => (t.ocPend, t.ocIe)) = some (false, true) ∧
    after (exec .ocArm { master with ocPend := true })
      (fun t => (t.ocPend, t.ocIe)) = some (false, true) := by decide +kernel

/-- O9 to O12. -/
theorem test_lp_operations :
    after (exec .lpTripped { master with lpLevel := true }) (fun t => t.res) = some 1 ∧
    after (exec .lpPending { master with lpPend := true }) (fun t => t.res) = some 1 ∧
    after (exec .lpClear { master with lpPend := true, lpIe := true })
      (fun t => (t.lpPend, t.lpIe)) = some (false, true) ∧
    after (exec .lpArm { master with lpPend := true })
      (fun t => (t.lpPend, t.lpIe)) = some (false, true) := by decide +kernel

/-! Outputs and system operations (vectors K1 to K6). -/

/-- K1a to K1h. -/
theorem test_verdict :
    verdict Config.ref 99999 799 301 = none ∧ verdict Config.ref 100000 0 500 = some .chargeCeiling ∧
    verdict Config.ref 0 800 500 = some .currentCeiling ∧
    verdict Config.ref 0 799 300 = some .voltageFloor ∧
    verdict Config.ref 100000 800 300 = some .chargeCeiling ∧
    verdict Config.ref 0 800 300 = some .currentCeiling := by decide +kernel

/-- K2, K2b, K2c, K2d, K3, K3b. -/
theorem test_outputs :
    after (exec .pwrOn master) (fun t => t.pwrEn) = some true ∧
    after (exec .pwrOff { master with pwrEn := true }) (fun t => t.pwrEn) = some false ∧
    after (exec .lrstRelease master) (fun t => t.lampRst) = some false ∧
    after (exec .lrstAssert { master with lampRst := false }) (fun t => t.lampRst) = some true ∧
    after (exec .sysIrqen master) (fun t => t.gie) = some true ∧
    after (exec .sysIrqdis { master with gie := true })
      (fun t => t.gie) = some false := by decide +kernel

/-- K4, K4d to K4f. -/
theorem test_sysSleep :
    after (exec .sysSleep { master with gie := true, adcEn := true, adcIe := true })
      (fun t => t.sleeping) = some true ∧
    after (exec .sysSleep { master with gie := true, adcIe := true, adcFlag := true })
      (fun t => t.sleeping) = some false ∧
    after (exec .sysSleep { master with gie := true, tovFlag := true, ocPend := true })
      (fun t => t.sleeping) = some true ∧
    refusal (exec .sysSleep master) = some .sleepWithInterruptsOff := by decide +kernel

/-- K5, K5b: FC10 and the outputs kept; a recorded condition kept. -/
theorem test_sysHalt :
    after (exec .sysHalt { master with pwrEn := true })
      (fun t => [t.ilkHalted.toNat, t.ilkFc.toNat, t.ilkState.toNat, t.ilkPhase.toNat,
        t.gie.toNat, t.pwrEn.toNat, t.wdtKick.toNat]) =
        some [1, 10, 5, 2, 0, 1, 0] ∧
    after (exec .sysHalt { master with ilkFc := 5, gie := true })
      (fun t => (t.ilkFc, t.gie)) = some (5, false) := by decide +kernel

/-- K6, K6b, and R223. -/
theorem test_wdtKick_and_lamp :
    after (exec .wdtKick { master with tbOvf := 3 })
      (fun t => (t.tbOvf, t.res, t.wdtKick)) = some (3, 0, true) ∧
    after (exec .lampPoll { master with lampChanged := true })
      (fun t => (t.res, t.lampChanged, t.lampPollReq)) = some (1, true, true) ∧
    after (exec (.evLamp true) { master with sleeping := true })
      (fun t => (t.lampChanged, t.sleeping, t.wdtKick)) = some (true, true, false) := by decide +kernel

/-! Sequencer, interrupts, resets (vectors K7 to K15, X1 to X9). -/

/-- K7b, K8b. -/
theorem test_fgStep_measurement :
    after (exec (.fgStep 4) { steady .ss6 with chan0 := { (steady .ss6).chan0 with acc := 99999 } })
      (fun t => [t.ilkState.toNat, t.ilkPhase.toNat, t.ilkQ.toNat,
        t.ilkFc.toNat, t.ilkCadence.toNat, t.pwrEn.toNat]) =
        some [4, 4, 99999, 0, 32, 1] ∧
    after (exec (.fgStep 5)
        { steady .ss6 with chan0 := { (steady .ss6).chan0 with sum := 20992, acc := 5 } })
      (fun t => [t.ilkPhase.toNat, t.ilkI.toNat, t.ilkFc.toNat,
        t.pwrEn.toNat, t.lampRst.toNat, t.ilkHalted.toNat]) =
        some [2, 800, 6, 0, 0, 1] := by decide +kernel

/-- K15: a tick elapsed and the lamp changed. -/
theorem test_fgStep_tick_branch :
    after (exec (.fgStep 4)
        { steady .ss5 with ilkLastTick := 6, tbOvf := 7, lampChanged := true, tbCnt := 100 })
      (fun t => (t.ilkPhase, t.ilkLastTick, t.ilkCadence, t.ilkLastChange)) = some (4, 7, 1, 437) :=
  by decide +kernel

/-- X1, X4. -/
theorem test_irqOc :
    after (exec .irqOc { steady .ss5 with sleeping := true, ocLevel := true, ocPend := true })
      (fun t => [t.ilkPhase.toNat, t.pwrEn.toNat, t.lampRst.toNat, t.ilkHalted.toNat,
        t.sleeping.toNat, t.ilkFc.toNat, t.ocPend.toNat]) =
        some [2, 0, 0, 1, 0, 8, 1] ∧
    refusal (exec .irqOc { steady .ap2 with ocIe := false, ocPend := true }) = some .interruptNotTakeable :=
  by decide +kernel

/-- X2, X3. -/
theorem test_irqLp :
    after (exec .irqLp { steady .ss10 with lpLevel := true, lpPend := true })
      (fun t => (t.pwrEn, t.lampRst, t.ilkHalted, t.ilkFc)) = some (false, true, true, 9) ∧
    refusal (exec .irqLp { steady .ss5 with ocPend := true, lpPend := true }) = some .interruptNotTakeable :=
  by decide +kernel

/-- X7, X8. -/
theorem test_evWdtexp :
    after (exec (.evWdtexp false false false 1234) { halted with tbOvf := 900, src := 17 })
      (fun t => [t.ilkState.toNat, t.rstCauseWdt.toNat, t.tbCnt.toNat, t.tbOvf.toNat,
        t.src.toNat, t.ilkFc.toNat, t.lampRst.toNat, t.ilkCadence.toNat]) =
        some [0, 1, 1234, 0, 0, 0, 1, 32] ∧
    refusal (exec (.evWdtexp false false false 0) (steady .ss5)) = some .watchdogFed :=
  by decide +kernel

/-- X9. -/
theorem test_evPor :
    after (exec (.evPor true true true 65535) (steady .ss7))
      (fun t => [t.ilkState.toNat, t.seqHold.toNat, t.ocLevel.toNat, t.ocPend.toNat,
        t.lpPend.toNat, t.tbCnt.toNat, t.pwrEn.toNat, t.lampRst.toNat]) =
        some [0, 1, 1, 0, 0, 65535, 0, 1] := by decide +kernel

/-- K10, K10b. -/
theorem test_fgStep_watchdog_boot :
    after (exec (.fgStep 1) { State.reset with rstCauseWdt := true })
      (fun t => [t.ilkState.toNat, t.ilkPhase.toNat, t.ilkFc.toNat,
        t.ilkHalted.toNat, t.lampRst.toNat, t.wdtKick.toNat]) =
        some [5, 2, 1, 1, 1, 0] ∧
    after (exec (.fgStep 2) State.reset)
      (fun t => [t.ilkState.toNat, t.ilkPhase.toNat, t.wKind.toNat, t.rawDur.toNat, t.rawT0.toNat]) =
        some [1, 1, 5, 2000, 0] := by decide +kernel

/-! Witnesses: for each statement with hypotheses, a theorem of its name, with states and operands that
meet the hypotheses of each of its clauses together, at the boundary of the clause where it has one. -/

/-- The foreground is free in one state and not in another: the two clauses of every `OperationEffect`. -/
theorem witness_OperationEffect : ForegroundFree master ∧ ¬ForegroundFree State.reset := by decide

theorem witness_TimeBaseStartsAtATickBoundaryAndStops :
    (∃ s : State, ForegroundFree s) ∧
    (∃ s : State, ¬ForegroundFree s) ∧
    (∃ s : State, Awake s ∧ s.wKind = 1 ∧ s.tovFlag = true) ∧
    (∃ s : State, Awake s ∧ s.wKind = 1 ∧ s.tovFlag = false) :=
  ⟨⟨master, by decide +kernel⟩,
    ⟨State.reset, by decide +kernel⟩,
    ⟨{ master with wKind := 1, tovFlag := true }, by decide +kernel⟩,
    ⟨{ master with wKind := 1 }, by decide +kernel⟩⟩

theorem witness_ClockReadsReturnTheScaledAndTheRawCount :
    ForegroundFree master ∧ ¬ForegroundFree State.reset := witness_OperationEffect

/-- T10, T13: the clock at 4095900, so that the room is 100: issues of a refused duration,
of 99 and of 100 milliseconds. -/
theorem witness_MsWaitIssuesAndPollsTheClock :
    (∃ s : State, ¬ForegroundFree s) ∧
    (∃ s : State, ForegroundFree s ∧ s.cfg.msWrap ≤ (4096000 : BitVec 32).toNat) ∧
    (∃ s : State, ForegroundFree s ∧ (99 : BitVec 32) ≠ 0 ∧ (99 : BitVec 32).toNat < s.cfg.msWrap ∧
      (99 : BitVec 32).toNat < s.cfg.msWrap - nowValue s) ∧
    (∃ s : State, ForegroundFree s ∧ (100 : BitVec 32) ≠ 0 ∧ (100 : BitVec 32).toNat < s.cfg.msWrap ∧
      s.cfg.msWrap - nowValue s ≤ (100 : BitVec 32).toNat) :=
  ⟨⟨State.reset, by decide +kernel⟩,
    ⟨master, by decide +kernel⟩,
    ⟨{ master with tbOvf := 65534, tbCnt := 26215 }, by decide +kernel⟩,
    ⟨{ master with tbOvf := 65534, tbCnt := 26215 }, by decide +kernel⟩⟩

/-- The polls of both waits: the target just reached, the clock turned back, not yet; the wrap not yet,
nothing left, less than the room and exactly the room left. -/
theorem witness_MsWaitIssuesAndPollsTheClock_polls :
    (∃ s : State, Awake s ∧ s.wKind = 2 ∧ s.wTarget.toNat ≤ nowValue s) ∧
    (∃ s : State, Awake s ∧ s.wKind = 2 ∧ nowValue s < s.wT0.toNat) ∧
    (∃ s : State, Awake s ∧ s.wKind = 2 ∧ nowValue s < s.wTarget.toNat ∧ s.wT0.toNat ≤ nowValue s) ∧
    (∃ s : State, Awake s ∧ s.wKind = 3 ∧ s.wT0.toNat ≤ nowValue s) ∧
    (∃ s : State, Awake s ∧ s.wKind = 3 ∧ nowValue s < s.wT0.toNat ∧ s.wRem = 0) ∧
    (∃ s : State, Awake s ∧ s.wKind = 3 ∧ nowValue s < s.wT0.toNat ∧ s.wRem ≠ 0 ∧
      s.wRem.toNat < s.cfg.msWrap - nowValue s) ∧
    (∃ s : State, Awake s ∧ s.wKind = 3 ∧ nowValue s < s.wT0.toNat ∧ s.wRem ≠ 0 ∧
      s.cfg.msWrap - nowValue s ≤ s.wRem.toNat) :=
  ⟨⟨{ master with wKind := 2, tbOvf := 16, wTarget := 1000 }, by decide +kernel⟩,
    ⟨{ master with wKind := 2, wT0 := 1 }, by decide +kernel⟩,
    ⟨{ master with wKind := 2, wTarget := 1 }, by decide +kernel⟩,
    ⟨{ master with wKind := 3 }, by decide +kernel⟩,
    ⟨{ master with wKind := 3, wT0 := 1 }, by decide +kernel⟩,
    ⟨{ master with wKind := 3, wT0 := 1, wRem := 4095999 }, by decide +kernel⟩,
    ⟨{ master with wKind := 3, wT0 := 1, wRem := 4096000 }, by decide +kernel⟩⟩

theorem witness_TickWaitEndsWhenTheTickNumberChanges :
    (∃ s : State, ForegroundFree s) ∧
    (∃ s : State, ¬ForegroundFree s) ∧
    (∃ s : State, Awake s ∧ s.wKind = 4 ∧ s.tbOvf ≠ s.wT0) ∧
    (∃ s : State, Awake s ∧ s.wKind = 4 ∧ s.tbOvf = s.wT0) :=
  ⟨⟨master, by decide +kernel⟩,
    ⟨State.reset, by decide +kernel⟩,
    ⟨{ master with wKind := 4, tbOvf := 10, wT0 := 9 }, by decide +kernel⟩,
    ⟨{ master with wKind := 4, tbOvf := 9, wT0 := 9 }, by decide +kernel⟩⟩

theorem witness_RawWindowServicesTheOverflowAndMeasures :
    (∃ s : State, ¬ForegroundFree s) ∧
    (∃ s : State, ForegroundFree s ∧ s.cfg.msWrap ≤ (4096000 : BitVec 32).toNat) ∧
    (∃ s : State, ForegroundFree s ∧ (4095999 : BitVec 32).toNat < s.cfg.msWrap) ∧
    (∃ s : State, Awake s ∧ s.wKind = 5) :=
  ⟨⟨State.reset, by decide +kernel⟩,
    ⟨master, by decide +kernel⟩,
    ⟨master, by decide +kernel⟩,
    ⟨{ master with wKind := 5 }, by decide +kernel⟩⟩

theorem witness_CountingIsRepeatedSingleCounts :
    (1 : BitVec 32) ≠ 0 ∧ (4294967295 : BitVec 32) ≠ 0 := by decide

theorem witness_OverflowHandlerCountsTheTick :
    (∃ s : State, Interruptible s ∧ TovPending s ∧ ¬OcPending s ∧ ¬LpPending s ∧ ¬AdcPending s) ∧
    (∃ s : State, ¬(Interruptible s ∧ TovPending s ∧ ¬OcPending s ∧ ¬LpPending s ∧ ¬AdcPending s)) :=
  ⟨⟨{ master with tovFlag := true, tovIe := true, gie := true }, by decide +kernel⟩,
    ⟨{ master with
      tovFlag := true, tovIe := true, gie := true, adcFlag := true, adcIe := true }, by decide +kernel⟩⟩

theorem witness_ConverterStartsAtChannelZeroAndStopsClean :
    ForegroundFree master ∧ ¬ForegroundFree State.reset := witness_OperationEffect

theorem witness_IsUpdatedIsAllOrNothing :
    ForegroundFree master ∧ ¬ForegroundFree State.reset := witness_OperationEffect

theorem witness_CalibrationTakesTheRunningSum :
    ForegroundFree master ∧ ¬ForegroundFree State.reset := witness_OperationEffect

/-- A sum of sixteen full-scale samples, and the answer of the reading. -/
theorem witness_ReadingsAreRoundedAndClamped :
    (ForegroundFree master ∧ ¬ForegroundFree State.reset) ∧ ∃ s t : State,
      (s.chan .ch0).sum.toNat ≤ 16368 ∧ exec (.adcReading .ch0) s = .next t ∧ t.res = 1023 := by
  obtain ⟨t, h, e⟩ := next_of_after (f := fun t => t.res) (v := 1023)
    (r := exec (.adcReading .ch0) { master with chan0 := { ChannelAcc.reset with sum := 16368 } })
    (by decide +kernel)
  exact ⟨witness_OperationEffect, _, t, by decide, h, e⟩

theorem witness_ConversionDeliversTheSampleOrOverruns :
    (∃ s : State, s.adcEn = false) ∧
    (∃ s : State, s.adcEn = true ∧ s.adcFlag = false) ∧
    (∃ s : State, s.adcEn = true ∧ s.adcFlag = true ∧ s.ilkHalted = true) ∧
    (∃ s : State, s.adcEn = true ∧ s.adcFlag = true ∧ s.ilkHalted = false ∧ s.cfg.onOverrun = .stop) ∧
    (∃ s : State, s.adcEn = true ∧ s.adcFlag = true ∧ s.ilkHalted = false ∧ s.cfg.onOverrun = .hardware) :=
  ⟨⟨master, by decide +kernel⟩,
    ⟨halted, by decide +kernel⟩,
    ⟨{ halted with adcFlag := true }, by decide +kernel⟩,
    ⟨{ master with adcEn := true, adcFlag := true }, by decide +kernel⟩,
    ⟨{ master with
      adcEn := true, adcFlag := true, cfg := { Config.ref with onOverrun := .hardware } }, by decide +kernel⟩⟩

/-- A6b: one below the top of the accumulator, and the counter one below its maximum. -/
theorem witness_ConversionHandlerRunsThePerConversionAlgorithm :
    ∃ (s : State) (a : ChannelAcc) (sum : BitVec 16) (accTop srcTop : Prop) (acc : Nat),
    a = s.chan s.adcMux ∧
    sum = a.sum - (s.ringAt s.adcMux a.cur).setWidth 16 + s.adcData.setWidth 16 ∧
    (accTop ↔ a.bias.toNat ≤ sum.toNat ∧
      2 ^ s.cfg.accW - 1 ≤ a.acc.toNat + (sum.toNat - a.bias.toNat + 4) / 8) ∧
    (srcTop ↔ s.src.toNat = 2 ^ s.cfg.srcW - 1) ∧ ¬accTop ∧ ¬srcTop ∧
    acc = (if a.bias.toNat ≤ sum.toNat then a.acc.toNat + (sum.toNat - a.bias.toNat + 4) / 8
      else a.acc.toNat - (a.bias.toNat - sum.toNat + 4) / 8) ∧
    Interruptible s ∧ AdcPending s ∧ ¬OcPending s ∧ ¬LpPending s := by
  refine ⟨{ converted 75 0 4294967285 with src := 254 }, _, _, False, False, _, rfl, rfl,
    ?_, ?_, ?_, ?_, rfl, ?_⟩ <;> decide +kernel

/-- A5, A6: both tops reached, under the treatment `stop`. -/
theorem witness_ConversionHandlerRunsThePerConversionAlgorithm_stops :
    ∃ (s : State) (a : ChannelAcc) (sum : BitVec 16) (accTop srcTop : Prop) (acc : Nat),
    a = s.chan s.adcMux ∧
    sum = a.sum - (s.ringAt s.adcMux a.cur).setWidth 16 + s.adcData.setWidth 16 ∧
    (accTop ↔ a.bias.toNat ≤ sum.toNat ∧
      2 ^ s.cfg.accW - 1 ≤ a.acc.toNat + (sum.toNat - a.bias.toNat + 4) / 8) ∧
    (srcTop ↔ s.src.toNat = 2 ^ s.cfg.srcW - 1) ∧ accTop ∧ srcTop ∧ acc = 2 ^ s.cfg.accW - 1 ∧
    Interruptible s ∧ AdcPending s ∧ ¬OcPending s ∧ ¬LpPending s ∧
    s.cfg.onAccTop = .stop ∧ s.cfg.onSrcTop = .stop := by
  refine ⟨{ converted 76 0 4294967285 with src := 255 }, _, _, True, True, _, rfl, rfl,
    ?_, ?_, ?_, ?_, rfl, ?_⟩ <;> decide +kernel

/-- A5, A6: both tops reached, under the treatment `hardware` (log 10). -/
theorem witness_ConversionHandlerRunsThePerConversionAlgorithm_hardware :
    ∃ (s : State) (a : ChannelAcc) (sum : BitVec 16) (accTop srcTop : Prop) (acc : Nat),
    a = s.chan s.adcMux ∧
    sum = a.sum - (s.ringAt s.adcMux a.cur).setWidth 16 + s.adcData.setWidth 16 ∧
    (accTop ↔ a.bias.toNat ≤ sum.toNat ∧
      2 ^ s.cfg.accW - 1 ≤ a.acc.toNat + (sum.toNat - a.bias.toNat + 4) / 8) ∧
    (srcTop ↔ s.src.toNat = 2 ^ s.cfg.srcW - 1) ∧ accTop ∧ srcTop ∧ acc = 2 ^ s.cfg.accW - 1 ∧
    Interruptible s ∧ AdcPending s ∧ ¬OcPending s ∧ ¬LpPending s ∧
    s.cfg.onAccTop = .hardware ∧ s.cfg.onSrcTop = .hardware := by
  refine ⟨{ converted 76 0 4294967285 with
    src := 255, cfg := { Config.ref with onSrcTop := .hardware, onAccTop := .hardware } },
    _, _, True, True, _, rfl, rfl, ?_, ?_, ?_, ?_, rfl, ?_⟩ <;> decide +kernel

theorem witness_ConversionHandlerRunsThePerConversionAlgorithm_counter_and_refusal :
    (∃ s : State, s.src.toNat = 2 ^ s.cfg.srcW - 1 ∧ s.cfg.onSrcTop = .stop ∧ Interruptible s ∧
      AdcPending s ∧ ¬OcPending s ∧ ¬LpPending s) ∧
    (∃ s : State, ¬(Interruptible s ∧ AdcPending s ∧ ¬OcPending s ∧ ¬LpPending s)) :=
  ⟨⟨{ converted 0 0 0 with src := 255 }, by decide +kernel⟩, ⟨master, by decide⟩⟩

theorem witness_RingAccessIsChannelAndCursorWithPostIncrement :
    ∃ s t : State, exec .irqAdc s = .next t ∧ (t.chan0.cur, t.ringAt .ch0 15) = (0, 512) :=
  ⟨{ converted 512 0 0 with chan0 := { ChannelAcc.reset with cur := 15 } },
    next_of_after (f := fun t => (t.chan0.cur, t.ringAt .ch0 15)) (by decide +kernel)⟩

theorem witness_DetectorReadsReturnLevelAndLatch :
    ForegroundFree master ∧ ¬ForegroundFree State.reset := witness_OperationEffect

theorem witness_ClearAndArmWriteTheLatch :
    ForegroundFree master ∧ ¬ForegroundFree State.reset := witness_OperationEffect

theorem witness_OnlyPowerOnSetsThePowerEnable :
    (ForegroundFree master ∧ ¬ForegroundFree State.reset) ∧
    (∃ s t : State, exec .pwrOn s = .next t ∧ (s.pwrEn, t.pwrEn) = (false, true)) ∧
    (∃ s t : State, exec (.fgStep 1) s = .next t ∧ (s.pwrEn, t.pwrEn) = (false, true)) :=
  ⟨witness_OperationEffect, ⟨master, next_of_after (f := fun t => (master.pwrEn, t.pwrEn)) (by decide +kernel)⟩,
    ⟨{ State.reset with ilkState := 2 },
      next_of_after (f := fun t => (State.reset.pwrEn, t.pwrEn)) (by decide +kernel)⟩⟩

theorem witness_LampResetAndInterruptEnableAreWritten :
    ForegroundFree master ∧ ¬ForegroundFree State.reset := witness_OperationEffect

theorem witness_SleepOnlyWhenNothingIsPending :
    (∃ s : State, ¬ForegroundFree s) ∧
    (∃ s : State, ForegroundFree s ∧ s.gie = false) ∧
    (∃ s : State, ForegroundFree s ∧ s.gie = true ∧
      (TovPending s ∨ AdcPending s ∨ OcPending s ∨ LpPending s)) ∧
    (∃ s : State, ForegroundFree s ∧ s.gie = true ∧
      ¬(TovPending s ∨ AdcPending s ∨ OcPending s ∨ LpPending s)) :=
  ⟨⟨State.reset, by decide +kernel⟩,
    ⟨master, by decide +kernel⟩,
    ⟨{ master with gie := true, tovFlag := true, tovIe := true }, by decide +kernel⟩,
    ⟨{ master with gie := true, tovFlag := true }, by decide +kernel⟩⟩

theorem witness_HaltRecordsTheConditionAndStopsTheForeground :
    ForegroundFree master ∧ ¬ForegroundFree State.reset := witness_OperationEffect

theorem witness_KickAndLampInterface :
    ForegroundFree master ∧ ¬ForegroundFree State.reset := witness_OperationEffect

theorem witness_EscapeHatchesCutPowerAndHalt :
    (∃ s : State, Interruptible s ∧ OcPending s) ∧
    (∃ s : State, ¬(Interruptible s ∧ OcPending s)) ∧
    (∃ s : State, Interruptible s ∧ LpPending s ∧ ¬OcPending s) ∧
    (∃ s : State, ¬(Interruptible s ∧ LpPending s ∧ ¬OcPending s)) ∧
    (∃ s : State, ArmInv s ∧ s.seqHold = false ∧ s.ilkState.toNat < 3) ∧
    (∃ s : State, ArmInv s ∧ s.seqHold = false ∧ s.ilkState.toNat < 4) :=
  ⟨⟨{ steady .ss5 with ocPend := true }, by decide +kernel⟩,
    ⟨steady .ss5, by decide +kernel⟩,
    ⟨{ steady .ss5 with lpPend := true }, by decide +kernel⟩,
    ⟨{ steady .ss5 with ocPend := true, lpPend := true }, by decide +kernel⟩,
    ⟨{ State.reset with ilkState := 2, ilkPhase := 2, gie := true, ocPend := true }, by decide +kernel⟩,
    ⟨{ State.reset with ilkState := 3, ocIe := true, gie := true, lpPend := true }, by decide +kernel⟩⟩

theorem witness_ExactlyOneInterruptIsTakeable :
    (∃ (i : Instr) (s : State), i ∈ [Instr.irqOc, .irqLp, .irqAdc, .irqTov] ∧
      refusal (exec i s) = none) ∧
    (∃ s : State, Interruptible s ∧ (TovPending s ∨ AdcPending s ∨ OcPending s ∨ LpPending s)) :=
  ⟨⟨.irqAdc, converted 0 0 0, by decide +kernel⟩, ⟨converted 0 0 0, by decide⟩⟩

theorem witness_ResetEventsGiveTheResetTable :
    (∃ s : State, s.ilkHalted = true) ∧
    (∃ s : State, s.ilkHalted = false) :=
  ⟨⟨halted, by decide +kernel⟩,
    ⟨master, by decide +kernel⟩⟩

theorem witness_WatchdogResetHaltsAgainWithPowerOff :
    ∃ s : State, s.ilkHalted = true :=
  ⟨halted, by decide +kernel⟩

theorem witness_PoweredDownDecidesByTheResetCause :
    (∃ s : State, SequencerAt .pd0 s ∧ s.rstCauseWdt = true) ∧
    (∃ s : State, SequencerAt .pd0 s ∧ s.rstCauseWdt = false) :=
  ⟨⟨{ State.reset with rstCauseWdt := true }, by decide +kernel⟩,
    ⟨State.reset, by decide +kernel⟩⟩

/-- Each position of `CalibratingBias`; at CB.3 exactly the conversions asked for, and one less. -/
theorem witness_CalibratingBiasFollowsTheTable :
    (∃ s : State, SequencerAt .cb0 s ∧ s.cfg.ilkPrecalSettleMs.toNat < s.cfg.msWrap) ∧
    (∃ s : State, SequencerAt .cb1 s) ∧
    (∃ s : State, SequencerAt .cb2 s) ∧
    (∃ s : State, SequencerAt .cb3 s ∧ 2 * s.cfg.ilkCalRounds.toNat ≤ s.src.toNat) ∧
    (∃ s : State, SequencerAt .cb3 s ∧ s.src.toNat < 2 * s.cfg.ilkCalRounds.toNat) ∧
    (∃ s : State, SequencerAt .cb4 s) ∧
    (∃ s : State, SequencerAt .cb5 s ∧ s.ocLevel = true) ∧
    (∃ s : State, SequencerAt .cb5 s ∧ s.ocLevel = false) :=
  ⟨⟨steady .cb0, by decide +kernel⟩,
    ⟨steady .cb1, by decide +kernel⟩,
    ⟨steady .cb2, by decide +kernel⟩,
    ⟨{ steady .cb3 with src := 32 }, by decide +kernel⟩,
    ⟨{ steady .cb3 with src := 31 }, by decide +kernel⟩,
    ⟨steady .cb4, by decide +kernel⟩,
    ⟨{ steady .cb5 with ocLevel := true }, by decide +kernel⟩,
    ⟨steady .cb5, by decide +kernel⟩⟩

/-- Each position of `ApplyingPower`; at AP.3 the window just ended (T16b), and one count before its end. -/
theorem witness_ApplyingPowerFollowsTheTable :
    (∃ s : State, SequencerAt .ap0 s) ∧
    (∃ s : State, SequencerAt .ap1 s ∧ 256 < s.cfg.msWrap) ∧
    (∃ s : State, SequencerAt .ap2 s ∧ s.ocLevel = true) ∧
    (∃ s : State, SequencerAt .ap2 s ∧ s.ocLevel = false) ∧
    (∃ s : State, SequencerAt .ap3 s ∧ s.rawDur.toNat ≤ windowAge (overflowServiced s)) ∧
    (∃ s : State, SequencerAt .ap3 s ∧ windowAge (overflowServiced s) < s.rawDur.toNat) ∧
    (∃ s : State, SequencerAt .ap4 s) ∧
    (∃ s : State, SequencerAt .ap5 s) ∧
    (∃ s : State, SequencerAt .ap6 s) ∧
    (∃ s : State, SequencerAt .ap7 s) :=
  ⟨⟨steady .ap0, by decide +kernel⟩,
    ⟨steady .ap1, by decide +kernel⟩,
    ⟨{ steady .ap2 with ocLevel := true }, by decide +kernel⟩,
    ⟨steady .ap2, by decide +kernel⟩,
    ⟨{ steady .ap3 with tbOvf := 3, tbCnt := 7200, tovFlag := true, rawDur := 256 }, by decide +kernel⟩,
    ⟨{ steady .ap3 with tbOvf := 4, tbCnt := 6144, rawDur := 256 }, by decide +kernel⟩,
    ⟨steady .ap4, by decide +kernel⟩,
    ⟨steady .ap5, by decide +kernel⟩,
    ⟨steady .ap6, by decide +kernel⟩,
    ⟨steady .ap7, by decide +kernel⟩⟩

theorem witness_ConfirmingLowPowerIsAOneShotCheck :
    (∃ s : State, SequencerAt .cl0 s ∧ s.lpLevel = true) ∧
    (∃ s : State, SequencerAt .cl0 s ∧ s.lpLevel = false) ∧
    (∃ s : State, SequencerAt .cl1 s) :=
  ⟨⟨{ steady .cl0 with lpLevel := true }, by decide +kernel⟩,
    ⟨steady .cl0, by decide +kernel⟩,
    ⟨steady .cl1, by decide +kernel⟩⟩

/-- Each position of the loop; at SS.5 exactly the conversions of the cadence, and one less. -/
theorem witness_SteadyStateLoopFollowsTheTable :
    (∃ s : State, SequencerAt .ss0 s) ∧
    (∃ s : State, SequencerAt .ss1 s) ∧
    (∃ s : State, SequencerAt .ss2 s) ∧
    (∃ s : State, SequencerAt .ss3 s) ∧
    (∃ s : State, SequencerAt .ss4 s ∧ s.gie = true ∧
      (TovPending s ∨ AdcPending s ∨ OcPending s ∨ LpPending s)) ∧
    (∃ s : State, SequencerAt .ss4 s ∧ s.gie = true ∧
      ¬(TovPending s ∨ AdcPending s ∨ OcPending s ∨ LpPending s)) ∧
    (∃ s : State, SequencerAt .ss5 s ∧ 2 * s.ilkCadence.toNat ≤ s.src.toNat) ∧
    (∃ s : State, SequencerAt .ss5 s ∧ s.src.toNat < 2 * s.ilkCadence.toNat) ∧
    (∃ s : State, SequencerAt .ss10 s ∧ BitVec.ofNat 32 (s.tbOvf.toNat % 2 ^ s.cfg.ovfW) ≠ s.ilkLastTick) ∧
    (∃ s : State, SequencerAt .ss10 s ∧ BitVec.ofNat 32 (s.tbOvf.toNat % 2 ^ s.cfg.ovfW) = s.ilkLastTick) ∧
    (∃ s : State, SequencerAt .ss11 s ∧ s.lampChanged = true) ∧
    (∃ s : State, SequencerAt .ss11 s ∧ s.lampChanged = false) ∧
    (∃ s : State, SequencerAt .ss12 s) :=
  ⟨⟨steady .ss0, by decide +kernel⟩,
    ⟨steady .ss1, by decide +kernel⟩,
    ⟨steady .ss2, by decide +kernel⟩,
    ⟨steady .ss3, by decide +kernel⟩,
    ⟨{ steady .ss4 with tovFlag := true }, by decide +kernel⟩,
    ⟨steady .ss4, by decide +kernel⟩,
    ⟨{ steady .ss5 with src := 64 }, by decide +kernel⟩,
    ⟨{ steady .ss5 with src := 63 }, by decide +kernel⟩,
    ⟨{ steady .ss10 with tbOvf := 7 }, by decide +kernel⟩,
    ⟨steady .ss10, by decide +kernel⟩,
    ⟨{ steady .ss11 with lampChanged := true }, by decide +kernel⟩,
    ⟨steady .ss11, by decide +kernel⟩,
    ⟨steady .ss12, by decide +kernel⟩⟩

/-- K1: the three thresholds at their bounds, and one inside each. -/
theorem witness_MeasurementAppliesTheThreeThresholds :
    (∃ s : State, SequencerAt .ss6 s) ∧
    (∃ s : State, SequencerAt .ss7 s) ∧
    (∃ s : State, SequencerAt .ss8 s) ∧
    (∃ s : State, SequencerAt .ss9 s ∧ s.cfg.ilkQCeil ≤ s.ilkQ.toNat) ∧
    (∃ s : State, SequencerAt .ss9 s ∧ s.ilkQ.toNat < s.cfg.ilkQCeil ∧ s.cfg.ilkICeil ≤ s.ilkI.toNat) ∧
    (∃ s : State, SequencerAt .ss9 s ∧ s.ilkQ.toNat < s.cfg.ilkQCeil ∧ s.ilkI.toNat < s.cfg.ilkICeil ∧
      s.ilkV.toNat ≤ s.cfg.ilkVFloor) ∧
    (∃ s : State, SequencerAt .ss9 s ∧ s.ilkQ.toNat < s.cfg.ilkQCeil ∧ s.ilkI.toNat < s.cfg.ilkICeil ∧
      s.cfg.ilkVFloor < s.ilkV.toNat) :=
  ⟨⟨steady .ss6, by decide +kernel⟩,
    ⟨steady .ss7, by decide +kernel⟩,
    ⟨steady .ss8, by decide +kernel⟩,
    ⟨{ steady .ss9 with ilkQ := 100000 }, by decide +kernel⟩,
    ⟨{ steady .ss9 with ilkQ := 99999, ilkI := 800 }, by decide +kernel⟩,
    ⟨{ steady .ss9 with ilkQ := 99999, ilkI := 799, ilkV := 300 }, by decide +kernel⟩,
    ⟨{ steady .ss9 with ilkQ := 99999, ilkI := 799, ilkV := 301 }, by decide +kernel⟩⟩

theorem witness_ControlledShutdownHoldsLampRemovesPowerHalts :
    (∃ s : State, SequencerAt .sd0 s) ∧
    (∃ s : State, SequencerAt .sd1 s) ∧
    (∃ s : State, SequencerAt .sd2 s) :=
  ⟨⟨steady .sd0, by decide +kernel⟩,
    ⟨steady .sd1, by decide +kernel⟩,
    ⟨steady .sd2, by decide +kernel⟩⟩

/-- K7: the accumulated charge exactly at the ceiling. -/
theorem witness_ChargeAtTheCeilingShutsDown :
    ∃ s : State, SequencerAt .ss6 s ∧ s.chan0.acc.toNat < 2 ^ s.cfg.accW ∧ s.cfg.ilkQCeil ≤ s.chan0.acc.toNat :=
  ⟨{ steady .ss6 with chan0 := { ChannelAcc.reset with acc := 100000 } }, by decide +kernel⟩

theorem witness_ForegroundStepsCompose :
    ((1 : BitVec 32) ≠ 0 ∧ (4294967294 : BitVec 32) ≠ 0 ∧
      (1 : BitVec 32).toNat + (4294967294 : BitVec 32).toNat < 2 ^ 32) ∧
    (∃ s : State, s.ilkHalted = true) ∧ (∃ s : State, s.sleeping = true) ∧
    (∃ s : State, s.wKind = 0 ∧ s.seqHold = true) :=
  ⟨by decide, ⟨halted, rfl⟩, ⟨{ master with sleeping := true }, rfl⟩, ⟨master, by decide⟩⟩

/-- A change of state (CL.0 to SD.0) made by one step. -/
theorem witness_StateChangesAreTheListedOnes :
    ∃ s t : State, exec (.fgStep 1) s = .next t ∧ (s.ilkState, t.ilkState) = (3, 5) :=
  ⟨{ steady .cl0 with lpLevel := true },
    next_of_after (f := fun t => ((steady .cl0).ilkState, t.ilkState)) (by decide +kernel)⟩

theorem witness_OnlyAResetGoesBack :
    ∃ (i : Instr) (s t : State), s.ilkState.toNat ≤ 5 ∧ isReset i = false ∧ exec i s = .next t ∧
      (s.ilkState, t.ilkState) = (4, 5) := by
  obtain ⟨t, h, e⟩ := next_of_after (f := fun t => ((steady .ss5).ilkState, t.ilkState)) (v := (4, 5))
    (r := exec .irqOc { steady .ss5 with ocPend := true }) (by decide +kernel)
  exact ⟨.irqOc, _, t, by decide, rfl, h, e⟩

/-- In a halted block a count, a conversion, an input change and a reset each have a step. -/
theorem witness_HaltIsTerminal :
    (∃ s t : State, s.ilkHalted = true ∧ exec (.evCount 1) s = .next t) ∧
    (∃ s t : State, s.ilkHalted = true ∧ exec (.evAdcdone 3) s = .next t) ∧
    (∃ s t : State, s.ilkHalted = true ∧ exec (.evOc true) s = .next t) ∧
    (∃ s t : State, s.ilkHalted = true ∧ exec (.evWdtexp false false false 7) s = .next t) :=
  ⟨⟨halted, _, by decide, rfl⟩, ⟨halted, _, by decide, rfl⟩, ⟨halted, _, by decide, rfl⟩,
    ⟨halted, _, by decide, rfl⟩⟩

theorem witness_OperationsLeaveTheInterruptEnable :
    ∃ (i : Instr) (s t : State), isOperation i = true ∧ i ≠ .sysIrqen ∧ i ≠ .sysIrqdis ∧ i ≠ .sysHalt ∧
      exec i s = .next t :=
  ⟨.ocArm, { master with gie := true }, _, rfl, by decide, by decide, by decide, rfl⟩

theorem witness_OnlyTheHandlerWritesTheRings :
    ∃ (i : Instr) (s t : State), i ≠ .irqAdc ∧ isReset i = false ∧ exec i s = .next t :=
  ⟨.adcStart, master, _, by decide, rfl, rfl⟩

theorem witness_InputsAreWrittenByTheirEventsOnly :
    ∃ (i : Instr) (s t : State), exec i s = .next t ∧ isReset i = false ∧ (∀ n, i ≠ .evCount n) ∧
      (∀ l, i ≠ .evOc l) ∧ (∀ l, i ≠ .evLp l) ∧ (∀ l, i ≠ .evLamp l) :=
  ⟨.adcStart, master, _, rfl, rfl, nofun, nofun, nofun, nofun⟩

/-- An operation; and each ground of its refusal. -/
theorem witness_OperationsAreRefusedExactlyWhenNotEnabled :
    isOperation .sysSleep = true ∧ ¬ForegroundFree State.reset ∧
    Instr.wellFormed master.cfg (.tbMswait 4096000) = false ∧ master.gie = false := by decide +kernel

/-- A count across the wrap with the flag clear, and one below the boundary with the flag set. -/
theorem witness_CombinedCountIsExactWhileServiced :
    (∃ s t : State, exec (.evCount 3) s = .next t ∧ s.tbOvf.toNat < 2 ^ s.cfg.ovfW ∧
      correctedOvf s + 1 < 2 ^ s.cfg.ovfW ∧ s.tbCnt.toNat + (3 : BitVec 32).toNat < 131072 ∧
      s.tovFlag = false ∧ (t.tovFlag, decide (t.tbCnt.toNat < s.cfg.tbCorrBound)) = (true, true)) ∧
    (∃ s t : State, exec .irqTov s = .next t ∧ s.cfg.ovfW ≤ 32 ∧
      (s.tovFlag = true ∧ s.tbCnt.toNat < s.cfg.tbCorrBound) ∧ t.tovFlag = false) ∧
    (∃ s t : State, exec .tbRawended s = .next t ∧ s.cfg.ovfW ≤ 32 ∧
      (s.tovFlag = true ∧ s.tbCnt.toNat < s.cfg.tbCorrBound) ∧ t.tovFlag = false) := by
  refine ⟨?_, ?_, ?_⟩
  · obtain ⟨t, h, e⟩ := next_of_after
      (f := fun t => (t.tovFlag, decide (t.tbCnt.toNat < Config.ref.tbCorrBound))) (v := (true, true))
      (r := exec (.evCount 3) { master with tbCnt := 65534 }) (by decide +kernel)
    exact ⟨_, t, h, by decide +kernel, by decide +kernel, by decide, rfl, e⟩
  · obtain ⟨t, h, e⟩ := next_of_after (f := fun t => t.tovFlag) (v := false)
      (r := exec .irqTov { master with tovFlag := true, tovIe := true, gie := true, tbCnt := 65534 })
      (by decide +kernel)
    exact ⟨_, t, h, by decide, by decide, e⟩
  · obtain ⟨t, h, e⟩ := next_of_after (f := fun t => t.tovFlag) (v := false)
      (r := exec .tbRawended { master with tovFlag := true, tbCnt := 65534 }) (by decide +kernel)
    exact ⟨_, t, h, by decide, by decide, e⟩

/-- The last value of the clock, and two counts in order. -/
theorem witness_ClockFitsAndIsMonotoneInTheCount :
    (∃ s t : State, s.cfg.valid = true ∧ s.tbOvf.toNat < 2 ^ s.cfg.ovfW ∧ exec .tbNow s = .next t ∧
      t.res = 4095999) ∧
    (master.cfg = State.reset.cfg ∧
      combinedCount master ≤ combinedCount { State.reset with tbCnt := 1 }) := by
  refine ⟨?_, by decide +kernel⟩
  obtain ⟨t, h, e⟩ := next_of_after (f := fun t => t.res) (v := 4095999)
    (r := exec .tbNow { master with tbOvf := 65535, tbCnt := 65535 }) (by decide +kernel)
  exact ⟨_, t, by decide +kernel, by decide +kernel, h, e⟩

theorem witness_RawWaitIsRawStartAndRepeatedRawEnded :
    (∃ s t : State, exec (.tbRawstart 4095999) s = .next t ∧ t.rawDur = 4095999) ∧
    (Awake { master with wKind := 5 } ∧ ({ master with wKind := 5 } : State).seqHold = true) :=
  ⟨⟨master, next_of_after (f := fun t => t.rawDur) (by decide +kernel)⟩, by decide⟩

theorem witness_ShutdownAndCutSequencesHaltWithPowerOff :
    (∃ s : State, ForegroundFree s ∧ s.ilkFc = 0) ∧
    (∃ s : State, ForegroundFree s ∧ s.ilkFc ≠ 0) :=
  ⟨⟨{ master with pwrEn := true }, by decide +kernel⟩,
    ⟨{ master with ilkFc := 5 }, by decide +kernel⟩⟩

theorem witness_EncodeInvertsDecode :
    ∃ (w : TraceWord) (i : Instr), decode w = .ok i := ⟨0xE100000003FF, .evAdcdone 1023, by decide +kernel⟩

theorem witness_StepExecutesTheNextWord :
    ∃ (s : State) (w : TraceWord) (rest : List TraceWord) (i : Instr),
      s.cfg.valid = true ∧ s.trace = w :: rest ∧ decode w = .ok i :=
  ⟨{ master with trace := [0x400000000000] }, _, _, .pwrOn, by decide +kernel, rfl, by decide +kernel⟩

/-- An illegal word under both treatments, a configuration that fails R7, an empty trace. -/
theorem witness_StepRefusesIllegalWordsAndHoldsWithoutAWord :
    (∃ (s : State) (w : TraceWord) (rest : List TraceWord) (e : Illegal),
      s.cfg.valid = true ∧ s.trace = w :: rest ∧ decode w = .error e ∧ s.cfg.onIllegal = .stop) ∧
    (∃ (s : State) (w : TraceWord) (rest : List TraceWord) (e : Illegal),
      s.cfg.valid = true ∧ s.trace = w :: rest ∧ decode w = .error e ∧ s.cfg.onIllegal = .hardware ∧
      ForegroundFree s) ∧
    (∃ (s : State) (w : TraceWord) (rest : List TraceWord) (e : Illegal),
      s.cfg.valid = true ∧ s.trace = w :: rest ∧ decode w = .error e ∧ s.cfg.onIllegal = .hardware ∧
      ¬ForegroundFree s) ∧
    (∃ s : State, s.cfg.valid = false) ∧ (∃ s : State, s.cfg.valid = true ∧ s.trace = []) :=
  ⟨⟨{ master with trace := [0x090000000000] }, _, _, .reservedOpcode 0x09,
      by decide +kernel, rfl, by decide +kernel, rfl⟩,
    ⟨{ master with trace := [0x090000000000], cfg := { Config.ref with onIllegal := .hardware } }, _, _,
      .reservedOpcode 0x09, by decide +kernel, rfl, by decide +kernel, rfl, by decide⟩,
    ⟨{ State.reset with trace := [0x090000000000], cfg := { Config.ref with onIllegal := .hardware } },
      _, _, .reservedOpcode 0x09, by decide +kernel, rfl, by decide +kernel, rfl, by decide⟩,
    ⟨{ State.reset with cfg := { Config.ref with ovfW := 0 } }, by decide +kernel⟩,
    ⟨State.reset, by decide +kernel⟩⟩

theorem witness_StepKeepsTheRunningSums :
    ∃ s t : State, (WindowInv s) ∧ step s = .next t ∧ t.chan0.sum = 1023 := by
  obtain ⟨t, h, e⟩ := next_of_after (f := fun t => t.chan0.sum) (v := 1023)
    (r := step { converted 1023 0 0 with trace := [0xEA0000000000] })
    (by decide +kernel)
  exact ⟨_, t, by decide +kernel, h, e⟩

theorem witness_StepKeepsTheWidths :
    ∃ s t : State, (WidthInv s) ∧ step s = .next t ∧ t.chan0.acc = 128 := by
  obtain ⟨t, h, e⟩ := next_of_after (f := fun t => t.chan0.acc) (v := 128)
    (r := step { converted 1023 0 0 with trace := [0xEA0000000000] })
    (by decide +kernel)
  exact ⟨_, t, by decide +kernel, h, e⟩

theorem witness_StepKeepsEncodingsHaltAndSleep :
    ∃ s t : State, (EncodingInv s ∧ HaltInv s ∧ SleepInv s) ∧ step s = .next t ∧ t.ilkHalted = true := by
  obtain ⟨t, h, e⟩ := next_of_after (f := fun t => t.ilkHalted) (v := true)
    (r := step { steady .ss5 with sleeping := true, ocPend := true, trace := [0xE80000000000] })
    (by decide +kernel)
  exact ⟨_, t, by decide +kernel, h, e⟩

theorem witness_StepKeepsThePowerRule :
    ∃ s t : State, (MasterInv s ∧ PowerInv s) ∧ step s = .next t ∧ t.pwrEn = false := by
  obtain ⟨t, h, e⟩ := next_of_after (f := fun t => t.pwrEn) (v := false)
    (r := step { steady .ss5 with ocPend := true, trace := [0xE80000000000] })
    (by decide +kernel)
  exact ⟨_, t, by decide +kernel, h, e⟩

theorem witness_StepKeepsTheArmingOrder :
    ∃ s t : State, (ArmInv s) ∧ step s = .next t ∧ t.ocIe = true := by
  obtain ⟨t, h, e⟩ := next_of_after (f := fun t => t.ocIe) (v := true)
    (r := step { State.reset with ilkState := 2, ilkPhase := 4, trace := [0xEC0000000001] })
    (by decide +kernel)
  exact ⟨_, t, by decide +kernel, h, e⟩

/-- A run of one word from reset after a watchdog reset, the sequencer in control: halted with FC1. -/
theorem witness_EveryHaltedRunHasPowerOff :
    ∃ t : State,
      Host.Core.run Sys2Proof.core 1
        (State.resetTo { State.reset with cfg := Config.ref, trace := [0xEC0000000001] }
          true false false false 0) = .next t ∧
      (t.ilkHalted, t.seqHold) = (true, false) :=
  next_of_after (f := fun t => (t.ilkHalted, t.seqHold)) (by decide +kernel)

/-- X6, A4: the trace is refused, or faults, at its third word, and the answer says so. -/
theorem test_executeTrace_says_which_word :
    executeTrace [0xE00000011170, 0xE10000000001, 0xE10000000002] halted =
      .refused 2 0xE10000000002 .converterIdle ∧
    executeTrace [0x100000000000, 0xE10000000001, 0xE10000000002] master =
      .faulted 2 0xE10000000002 .conversionOverrun := by decide +kernel

/-- X6, A4 and one delivered completion: a refused, a faulting and a completed trace. -/
theorem witness_ExecutingATraceNamesTheWordItStopsAt :
    (∃ (ws : List TraceWord) (s : State) (w : TraceWord) (r : Refusal),
      executeTrace ws s = .refused 2 w r ∧ traceWellFormed ws s = false) ∧
    (∃ (ws : List TraceWord) (s : State) (w : TraceWord) (f : Fault),
      executeTrace ws s = .faulted 2 w f ∧ traceWellFormed ws s = true) ∧
    (∃ (ws : List TraceWord) (s t : State), ws ≠ [] ∧ executeTrace ws s = .completed t) :=
  ⟨⟨_, _, _, _, test_executeTrace_says_which_word.1, by decide +kernel⟩,
    ⟨_, _, _, _, test_executeTrace_says_which_word.2, by decide +kernel⟩,
    ⟨[0xE10000000001], { master with adcEn := true }, _, by decide, rfl⟩⟩

end Sys2Proof.Tests
end

/-! PROOF. Every step keeps the registers of open width within their widths and the raw window within
the clock (spec/00_scope.md R9; spec/10_state.md R33, R34, R38, R39, R47). One rule per register that
`WidthInv` names, then one lemma per layer of the step: operations, handlers, wait polls, the
sequencer, the foreground, the instructions. A record update that writes none of these registers leaves
`WidthInv` as it stands by definition, so its proof is the hypothesis itself; where such an update
writes a computed number, its rule is stated once for every number. -/

namespace Sys2Proof.Machine

variable {s t : State}

/-! What the registers of open width are below. -/

theorem WidthInv.nowValue_lt (hs : WidthInv s) : nowValue s < s.cfg.msWrap := by
  obtain ⟨hovf, -⟩ := hs
  exact Machine.nowValue_lt hovf

theorem WidthInv.src_lt (hs : WidthInv s) : s.src.toNat < 2 ^ s.cfg.srcW := by
  obtain ⟨-, -, hsrc, -⟩ := hs
  exact hsrc

/-- The accumulator of either channel holds a number of its width (R38). -/
theorem WidthInv.acc_lt (hs : WidthInv s) (c : Channel) : (s.chan c).acc.toNat < 2 ^ s.cfg.accW := by
  obtain ⟨-, -, -, h0, h1, -⟩ := hs
  cases c
  · exact h0
  · exact h1

/-! Writing a register of open width. -/

theorem WidthInv.setTbOvf (hs : WidthInv s) {v : BitVec 32} (hv : v.toNat < 2 ^ s.cfg.ovfW) :
    WidthInv { s with tbOvf := v } := by
  obtain ⟨-, hrest⟩ := hs
  exact ⟨hv, hrest⟩

theorem WidthInv.setLastTick (hs : WidthInv s) {v : BitVec 32} (hv : v.toNat < 2 ^ s.cfg.ovfW) :
    WidthInv { s with ilkLastTick := v } := by
  obtain ⟨hovf, -, hrest⟩ := hs
  exact ⟨hovf, hv, hrest⟩

theorem WidthInv.setSrc (hs : WidthInv s) {v : BitVec 32} (hv : v.toNat < 2 ^ s.cfg.srcW) :
    WidthInv { s with src := v } := by
  obtain ⟨hovf, htick, -, hrest⟩ := hs
  exact ⟨hovf, htick, hv, hrest⟩

theorem WidthInv.setChan (hs : WidthInv s) (c : Channel) {a : ChannelAcc}
    (ha : a.acc.toNat < 2 ^ s.cfg.accW) : WidthInv (s.setChan c a) := by
  obtain ⟨hovf, htick, hsrc, h0, h1, hrest⟩ := hs
  cases c
  · exact ⟨hovf, htick, hsrc, ha, h1, hrest⟩
  · exact ⟨hovf, htick, hsrc, h0, ha, hrest⟩

theorem WidthInv.setQ (hs : WidthInv s) {v : BitVec 32} (hv : v.toNat < 2 ^ s.cfg.accW) :
    WidthInv { s with ilkQ := v } := by
  obtain ⟨hovf, htick, hsrc, h0, h1, -, hwindow⟩ := hs
  exact ⟨hovf, htick, hsrc, h0, h1, hv, hwindow⟩

theorem WidthInv.openWindow (hs : WidthInv s) {t0 d : BitVec 32} (h0 : t0.toNat < s.cfg.msWrap)
    (hd : d.toNat < s.cfg.msWrap) : WidthInv (s.openWindow t0 d) := by
  obtain ⟨hovf, htick, hsrc, hacc0, hacc1, hq, -⟩ := hs
  exact ⟨hovf, htick, hsrc, hacc0, hacc1, hq, h0, hd⟩

/-- A reset puts 0 in every register of open width, and 0 is a number of every width (R54). -/
theorem WidthInv.resetTo (s : State) (wdt hold oc lp : Bool) (cnt : BitVec 16) :
    WidthInv (s.resetTo wdt hold oc lp cnt) := by
  have hpow : ∀ w : Nat, (0 : BitVec 32).toNat < 2 ^ w := Nat.two_pow_pos
  have hwrap : (0 : BitVec 32).toNat < s.cfg.msWrap := Nat.succ_pos _
  exact ⟨hpow _, hpow _, hpow _, hpow _, hpow _, hpow _, hwrap, hwrap⟩

/-! Writing any other register. -/

theorem WidthInv.setRes (hs : WidthInv s) (v : BitVec 32) : WidthInv (s.setRes v) := hs

theorem WidthInv.goto (hs : WidthInv s) (p : Position) : WidthInv (s.goto p) := hs

theorem WidthInv.setCount (hs : WidthInv s) (cnt : BitVec 16) (flag : Bool) :
    WidthInv { s with tbCnt := cnt, tovFlag := flag } := hs

theorem WidthInv.setWait (hs : WidthInv s) (t0 target rem : BitVec 32) (k : BitVec 3) :
    WidthInv { s with wT0 := t0, wTarget := target, wRem := rem, wKind := k } := hs

theorem WidthInv.setWaitKind (hs : WidthInv s) (k : BitVec 3) : WidthInv { s with wKind := k } := hs

theorem WidthInv.setCadence (hs : WidthInv s) (k : BitVec 6) : WidthInv { s with ilkCadence := k } := hs

theorem WidthInv.setLastChange (hs : WidthInv s) (v : BitVec 32) :
    WidthInv { s with ilkLastChange := v } := hs

theorem WidthInv.setReadings (hs : WidthInv s) (i v : BitVec 10) :
    WidthInv { s with ilkI := i, ilkV := v } := hs

/-! The time base. -/

theorem WidthInv.countOverflow (hs : WidthInv s) : WidthInv s.countOverflow :=
  hs.setTbOvf (toNat_ofNat_lt (wrapW_lt _ _))

theorem WidthInv.serviceOverflow (hs : WidthInv s) : WidthInv s.serviceOverflow := by
  unfold State.serviceOverflow
  split
  · exact hs.countOverflow
  · exact hs

theorem State.serviceOverflow_cfg (s : State) : s.serviceOverflow.cfg = s.cfg := by
  unfold State.serviceOverflow
  split <;> rfl

/-- The window opens at a clock value below the wrap, for a duration below the wrap (R139). -/
theorem WidthInv.tbRawstart (hs : WidthInv s) {d : BitVec 32} (hd : d.toNat < s.cfg.msWrap) :
    WidthInv (tbRawstart d s) := by
  have hu := hs.serviceOverflow
  exact hu.openWindow (toNat_ofNat_lt hu.nowValue_lt) (s.serviceOverflow_cfg ▸ hd)

theorem WidthInv.tbRawwaitIssue (hs : WidthInv s) {d : BitVec 32} (hd : d.toNat < s.cfg.msWrap) :
    WidthInv (tbRawwaitIssue d s) := (hs.tbRawstart hd).setWaitKind _

theorem WidthInv.tbRawended (hs : WidthInv s) : WidthInv (tbRawended s) :=
  hs.serviceOverflow.setRes _

theorem WidthInv.mswaitIssue (hs : WidthInv s) (d : Nat) : WidthInv (mswaitIssue d s) := by
  simp only [Machine.mswaitIssue]
  split
  · exact hs.setWaitKind _
  · split <;> exact hs.setWait _ _ _ _

theorem WidthInv.pollSync (hs : WidthInv s) : WidthInv (pollSync s) := by
  unfold Machine.pollSync
  split
  · exact hs.setTbOvf (Nat.two_pow_pos _)
  · exact hs

theorem WidthInv.pollRaw (hs : WidthInv s) : WidthInv (pollRaw s) := by
  unfold Machine.pollRaw
  split
  · exact hs.serviceOverflow.setWaitKind _
  · exact hs.serviceOverflow

theorem WidthInv.waitPoll (hs : WidthInv s) (h : waitPoll s = .next t) : WidthInv t := by
  obtain ⟨-, rfl⟩ | ⟨-, rfl⟩ | ⟨-, rfl⟩ | ⟨-, rfl⟩ | ⟨-, rfl⟩ := waitPoll_next h
  case inl => exact hs.pollSync
  case inr.inl => unfold pollMsNowrap; split <;> exact hs
  case inr.inr.inl =>
    unfold pollMsWrapwait
    split
    · exact hs.mswaitIssue _
    · exact hs
  case inr.inr.inr.inl => unfold pollTick; split <;> exact hs
  case inr.inr.inr.inr => exact hs.pollRaw

/-! The sampling engine. -/

/-- The counter only goes down by rounds it holds (R166). -/
theorem WidthInv.adcIsupdated (hs : WidthInv s) (rounds : BitVec 8) :
    WidthInv (adcIsupdated rounds s) := by
  have hsrc := hs.src_lt
  unfold Machine.adcIsupdated
  split
  · exact hs.setSrc (toNat_ofNat_lt (by omega))
  · exact hs

theorem WidthInv.adcCalbias (hs : WidthInv s) (ch : Channel) : WidthInv (adcCalbias ch s) := by
  have hacc : WidthInv (s.setChan ch { s.chan ch with bias := (s.chan ch).sum, acc := 0 }) :=
    hs.setChan ch (Nat.two_pow_pos _)
  exact hacc.setSrc (Nat.two_pow_pos _)

/-- The handler writes what `accumulated` and `srcCounted` answer, which stay in their widths (R161). -/
theorem WidthInv.handleAdc (hs : WidthInv s) (h : handleAdc s = .next t) : WidthInv t := by
  obtain ⟨acc, n, hacc, hn, rfl⟩ := handleAdc_next h
  have hacc' : acc < 2 ^ s.cfg.accW := accumulated_ok hacc (hs.acc_lt s.adcMux)
  have hn' : n < 2 ^ s.cfg.srcW := srcCounted_ok hn hs.src_lt
  have hchan : WidthInv (s.setChan s.adcMux
      { (s.chan s.adcMux).slide s.adcData with acc := BitVec.ofNat 32 acc }) :=
    hs.setChan s.adcMux (toNat_ofNat_lt hacc')
  refine hchan.setSrc (toNat_ofNat_lt ?_)
  rwa [State.setChan_cfg]

/-! The shared operations of a step. -/

theorem WidthInv.of_next {u : State} (h : (.next u : StepResult) = .next t) (hu : WidthInv u) :
    WidthInv t := by
  injection h with h
  exact h ▸ hu

theorem WidthInv.sysSleep (hs : WidthInv s) (h : sysSleep s = .next t) : WidthInv t := by
  obtain ⟨-, ⟨-, rfl⟩ | ⟨-, rfl⟩⟩ := sysSleep_next h
  · exact hs
  · exact hs

theorem WidthInv.sysHalt (hs : WidthInv s) (h : sysHalt s = .next t) : WidthInv t := by
  obtain ⟨id, -, -, -, rfl⟩ := sysHalt_next h
  exact hs

theorem WidthInv.operation {f : State → StepResult} (hs : WidthInv s) (h : operation s f = .next t)
    (hf : ∀ u, WidthInv u → f u = .next t → WidthInv t) : WidthInv t :=
  hf s.kick hs (operation_next h).2

theorem WidthInv.simpleOperation {f : State → State} (hs : WidthInv s)
    (h : simpleOperation s f = .next t) (hf : ∀ u, WidthInv u → WidthInv (f u)) : WidthInv t := by
  obtain ⟨-, rfl⟩ := simpleOperation_next h
  exact hf _ hs

theorem WidthInv.withDuration {d : BitVec 32} {f : State → State} (h : withDuration d s f = .next t)
    (hf : d.toNat < s.cfg.msWrap → WidthInv (f s)) : WidthInv t := by
  obtain ⟨hd, rfl⟩ := withDuration_next h
  exact hf hd

theorem WidthInv.durationOperation {d : BitVec 32} {f : State → State} (hs : WidthInv s)
    (h : Machine.operation s (fun u => Machine.withDuration d u f) = .next t)
    (hf : ∀ u, WidthInv u → d.toNat < u.cfg.msWrap → WidthInv (f u)) : WidthInv t :=
  hs.operation h fun u hu h => withDuration h (hf u hu)

theorem WidthInv.takeInterrupt {x : IrqSource} {body : State → StepResult}
    (hs : WidthInv s) (h : takeInterrupt x s body = .next t)
    (hbody : ∀ u, WidthInv u → body u = .next t → WidthInv t) : WidthInv t :=
  hbody { s.quiet with sleeping := false } hs (takeInterrupt_next h).2

/-! The sequencer. -/

theorem WidthInv.stepPoweredDown (hs : WidthInv s) : WidthInv (stepPoweredDown s) := by
  unfold Machine.stepPoweredDown
  split
  · exact hs
  · split <;> exact hs

theorem WidthInv.stepCheckBeforePower (hs : WidthInv s) : WidthInv (stepCheckBeforePower s) := by
  unfold Machine.stepCheckBeforePower
  dsimp only
  split <;> exact hs

theorem WidthInv.stepSettlePoll (hs : WidthInv s) : WidthInv (stepSettlePoll s) := by
  unfold Machine.stepSettlePoll
  dsimp only
  split <;> exact hs

theorem WidthInv.stepLowPowerCheck (hs : WidthInv s) : WidthInv (stepLowPowerCheck s) := by
  unfold Machine.stepLowPowerCheck
  dsimp only
  split <;> exact hs

theorem WidthInv.stepVerdict (hs : WidthInv s) : WidthInv (stepVerdict s) := by
  unfold Machine.stepVerdict
  split <;> exact hs

theorem resTick_lt (s : State) : (resTick s).toNat < 2 ^ s.cfg.ovfW := toNat_ofNat_lt (wrapW_lt _ _)

theorem resAcc_lt (s : State) : (resAcc s).toNat < 2 ^ s.cfg.accW := toNat_ofNat_lt (wrapW_lt _ _)

theorem WidthInv.stepTickBranch (hs : WidthInv s) : WidthInv (stepTickBranch s) := by
  unfold Machine.stepTickBranch
  dsimp only
  split
  · exact ((hs.setRes _).setLastTick (resTick_lt (tbTicknum s))).goto _
  · exact hs

theorem WidthInv.stepLampPoll (hs : WidthInv s) : WidthInv (stepLampPoll s) := by
  unfold Machine.stepLampPoll
  dsimp only
  split <;> exact hs

theorem WidthInv.microStep {p : Position} (hs : WidthInv s) (h : microStep p s = .next t) :
    WidthInv t := by
  cases p with
  | pd0 => exact of_next h hs.stepPoweredDown
  | cb0 =>
    unfold Machine.microStep at h
    exact withDuration h fun hd => (hs.tbRawwaitIssue hd).goto _
  | cb3 | ss5 => exact of_next h ((hs.adcIsupdated _).goto _)
  | cb4 => exact of_next h ((hs.adcCalbias _).goto _)
  | cb5 => exact of_next h hs.stepCheckBeforePower
  | ap1 =>
    unfold Machine.microStep at h
    exact withDuration h fun hd => (hs.tbRawstart hd).goto _
  | ap2 => exact of_next h hs.stepSettlePoll
  | ap3 => exact of_next h (hs.tbRawended.goto _)
  | ap7 | sd2 => exact hs.sysHalt h
  | cl0 => exact of_next h hs.stepLowPowerCheck
  | ss2 =>
    have htick : WidthInv { tbTicknum s with ilkLastTick := resTick (tbTicknum s) } :=
      (hs.setRes _).setLastTick (resTick_lt (tbTicknum s))
    exact of_next h ((htick.setCadence _).goto _)
  | ss3 | ss12 => exact of_next h (((hs.setRes _).setLastChange _).goto _)
  | ss4 => exact sysSleep (s := s.goto .ss5) hs h
  | ss6 => exact of_next h (((hs.setRes _).setQ (resAcc_lt (adcAcccharge s))).goto _)
  | ss7 | ss8 => exact of_next h (((hs.setRes _).setReadings _ _).goto _)
  | ss9 => exact of_next h hs.stepVerdict
  | ss10 => exact of_next h hs.stepTickBranch
  | ss11 => exact of_next h hs.stepLampPoll
  | cb1 | cb2 | ap0 | ap4 | ap5 | ap6 | cl1 | ss0 | ss1 | sd0 | sd1 =>
    exact of_next h hs

theorem WidthInv.foregroundStep (hs : WidthInv s) (h : foregroundStep s = .next t) : WidthInv t := by
  obtain ⟨-, -, ⟨-, hpoll⟩ | ⟨-, -, hseq⟩⟩ := foregroundStep_next h
  · exact waitPoll (s := s.kick) hs hpoll
  · obtain ⟨p, -, hmicro⟩ := sequencerStep_next hseq
    exact microStep (s := s.kick) hs hmicro

/-! The instructions and the step. -/

theorem WidthInv.exec {i : Instr} (hs : WidthInv s) (h : exec i s = .next t) : WidthInv t := by
  cases i with
  | tbMswait d => exact hs.durationOperation h fun _ hu _ => hu.mswaitIssue _
  | tbRawstart d => exact hs.durationOperation h fun _ hu hd => hu.tbRawstart hd
  | tbRawwait d => exact hs.durationOperation h fun _ hu hd => hu.tbRawwaitIssue hd
  | tbRawended => exact hs.simpleOperation h fun _ hu => hu.tbRawended
  | adcIsupdated rounds => exact hs.simpleOperation h fun _ hu => hu.adcIsupdated rounds
  | adcCalbias ch => exact hs.simpleOperation h fun _ hu => hu.adcCalbias ch
  | sysSleep => exact hs.operation h fun _ hu h => hu.sysSleep h
  | sysHalt => exact hs.operation h fun _ hu h => hu.sysHalt h
  | tbNow | tbTicknum | adcReading _ | adcAcccharge | ocTripped | ocPending | lpTripped | lpPending =>
    exact hs.simpleOperation h fun _ hu => hu.setRes _
  | tbStart | tbStop | tbTickwait | adcStart | adcStop | ocClear | ocArm | lpClear | lpArm
  | pwrOn | pwrOff | lrstAssert | lrstRelease | sysIrqen | sysIrqdis | wdtKick | lampPoll =>
    exact hs.simpleOperation h fun _ hu => hu
  | evCount n =>
    obtain ⟨-, rfl⟩ := execEvCount_next h
    exact WidthInv.setCount (s := s.quiet) hs _ _
  | evAdcdone x =>
    obtain ⟨-, -, rfl⟩ := execEvAdcdone_next h
    exact hs
  | evOc l | evLp l | evLamp l => exact of_next h hs
  | evWdtexp hold oc lp cnt =>
    obtain ⟨-, rfl⟩ := execEvWdtexp_next h
    exact resetTo s _ hold oc lp cnt
  | evPor hold oc lp cnt => exact of_next h (resetTo s _ hold oc lp cnt)
  | irqOc | irqLp => exact hs.takeInterrupt h fun _ hu h => of_next h hu
  | irqAdc => exact hs.takeInterrupt h fun _ hu h => hu.handleAdc h
  | irqTov => exact hs.takeInterrupt h fun _ hu h => of_next h hu.countOverflow
  | fgStep n =>
    exact foregroundSteps_keeps (fun _ _ hu h => hu.foregroundStep h) _ _ _ hs (execFgStep_next h).2

/-- Settles O55: the step holds, executes a word, or presents an illegal word, and each keeps the
widths. -/
theorem stepKeepsTheWidths : Obligations.StepKeepsTheWidths := by
  intro s t hs h
  obtain ⟨-, ⟨-, rfl⟩ | ⟨w, rest, -, ⟨i, -, hexec⟩ | ⟨e, -, hillegal⟩⟩⟩ := step_next h
  · exact hs
  · exact WidthInv.exec (s := { s with trace := rest }) hs hexec
  · obtain ⟨-, -, rfl⟩ := illegalWord_next hillegal
    exact hs

end Sys2Proof.Machine

/-! PROOF. What a step of the block can do to the registers it does not own: the inputs and the fields
of the model (spec/10_state.md R32, R41, R42, R44, R49), the windows of the two channels (R37, R38, R40)
and the registers that direct the foreground (R35, R48, R216, R272). `OperationFrame r s` says how far
the effects of one operation, begun in `r`, can have come in `s`; `StepEffect r t` says what a whole
instruction does, and each statement of this part is one clause of it. An effect that writes no register
of a clause leaves the clause as it stands by definition, so its proof is the hypothesis itself. -/

namespace Sys2Proof.Machine

variable {r s t : State}

/-! The terms of the two relations. -/

/-- The fields of the model and the registers that only an input event or a reset writes. -/
def State.inputs (s : State) : Config × List TraceWord × BitVec 16 × Bool × Bool × Bool × Bool × Bool :=
  (s.cfg, s.trace, s.tbCnt, s.ocLevel, s.lpLevel, s.lampChanged, s.rstCauseWdt, s.seqHold)

/-- The ring of a channel with its running sum and cursor: what one conversion moves (R37, R38). -/
def ChannelAcc.window (a : ChannelAcc) : Vector Sample 16 × BitVec 16 × BitVec 4 := (a.ring, a.sum, a.cur)

/-- `b` has the window of `a`, and its bias is that of `a` or a calibration from the running sum (R167). -/
abbrev WindowKept (a b : ChannelAcc) : Prop :=
  b.window = a.window ∧ (b.bias = a.bias ∨ b.bias = a.sum)

/-- The invariants on encodings, halt and sleep, kept together: a halt names its condition with a listed
value, and a block can only fall asleep with no wait in progress. -/
abbrev ControlInv (s : State) : Prop := EncodingInv s ∧ HaltInv s ∧ SleepInv s

/-- In `s` the foreground has begun an operation in `r` and has not yet moved, halted or slept. -/
abbrev OperationFrame (r s : State) : Prop :=
  s.inputs = r.inputs ∧ (∀ c, WindowKept (r.chan c) (s.chan c)) ∧ Awake s ∧ s.ilkState = r.ilkState ∧
  (EncodingInv r → EncodingInv s)

/-- What an instruction that is no input event, no conversion handler and no reset does from `r` to `t`. -/
structure StepEffect (r t : State) : Prop where
  inputs : t.inputs = r.inputs
  windows : ∀ c, WindowKept (r.chan c) (t.chan c)
  advances : r.ilkState.toNat ≤ 5 → r.ilkState.toNat ≤ t.ilkState.toNat ∧ t.ilkState.toNat ≤ 5
  control : ControlInv r → ControlInv t

/-! The windows. -/

theorem WindowKept.refl (a : ChannelAcc) : WindowKept a a := ⟨rfl, .inl rfl⟩

theorem ChannelAcc.sum_of_window {a b : ChannelAcc} (h : b.window = a.window) : b.sum = a.sum :=
  congrArg (fun w => w.2.1) h

theorem ChannelAcc.ringSum_of_window {a b : ChannelAcc} (h : b.window = a.window) :
    ringSum b = ringSum a :=
  congrArg (fun w : Vector Sample 16 × BitVec 16 × BitVec 4 => (w.1.toList.map BitVec.toNat).sum) h

theorem WindowKept.trans {a b c : ChannelAcc} (hab : WindowKept a b) (hbc : WindowKept b c) :
    WindowKept a c := by
  obtain ⟨hb, hbias⟩ := hab
  obtain ⟨hc, hcal | hcal⟩ := hbc
  · exact ⟨hc.trans hb, hcal ▸ hbias⟩
  · exact ⟨hc.trans hb, .inr (hcal.trans (ChannelAcc.sum_of_window hb))⟩

/-! The encodings, and what the halt and the sleep need of them. -/

@[simp] theorem State.position_goto (s : State) (p : Position) : (s.goto p).position = some p :=
  positionOf_position p

theorem Position.state_le (p : Position) : p.state.toNat ≤ 5 := by cases p <;> decide

theorem FatalCondition.code_le (fc : FatalCondition) : fc.code.toNat ≤ 10 := by cases fc <;> decide

theorem FatalCondition.code_ne_zero (fc : FatalCondition) : fc.code ≠ 0 := by cases fc <;> decide

theorem WaitKind.code_le (k : WaitKind) : k.code.toNat ≤ 5 := by cases k <;> decide

theorem EncodingInv.setWaitKind (hs : EncodingInv s) {k : BitVec 3} (hk : k.toNat ≤ 5) :
    EncodingInv { s with wKind := k } := by
  obtain ⟨-, hrest⟩ := hs
  exact ⟨hk, hrest⟩

theorem EncodingInv.setFc (hs : EncodingInv s) {id : BitVec 4} (hid : id.toNat ≤ 10) :
    EncodingInv { s with ilkFc := id } := by
  obtain ⟨hwait, hpos, -, hcadence⟩ := hs
  exact ⟨hwait, hpos, hid, hcadence⟩

theorem EncodingInv.setCadence (hs : EncodingInv s) {k : BitVec 6} (hk : k = 32 ∨ k = 1) :
    EncodingInv { s with ilkCadence := k } := by
  obtain ⟨hwait, hpos, hfc, -⟩ := hs
  exact ⟨hwait, hpos, hfc, hk⟩

theorem EncodingInv.goto (hs : EncodingInv s) (p : Position) : EncodingInv (s.goto p) := by
  obtain ⟨hwait, -, hrest⟩ := hs
  exact ⟨hwait, by simp, hrest⟩

/-- A halt puts the sequencer at SD.2 and names the condition (R272). -/
theorem EncodingInv.haltCode (hs : EncodingInv s) {id : BitVec 4} (hid : id.toNat ≤ 10) :
    EncodingInv (s.haltCode id) := (hs.setFc hid).goto .sd2

/-- The rules of halt and sleep ask nothing of an awake block. -/
theorem ControlInv.of_awake (hs : EncodingInv s) (ha : Awake s) : ControlInv s := by
  obtain ⟨hhalted, hsleeping⟩ := ha
  exact ⟨hs, by simp [HaltInv, hhalted], by simp [SleepInv, hsleeping]⟩

theorem ControlInv.haltCode (hs : EncodingInv s) {id : BitVec 4} (hid : id.toNat ≤ 10) (hne : id ≠ 0) :
    ControlInv (s.haltCode id) :=
  ⟨hs.haltCode hid, fun _ => ⟨rfl, rfl, rfl, rfl, hne⟩, by simp [SleepInv]⟩

theorem ControlInv.wake (hs : ControlInv s) : ControlInv { s with sleeping := false } := by
  obtain ⟨henc, hhalt, -⟩ := hs
  refine ⟨henc, fun hh => ?_, by simp [SleepInv]⟩
  obtain ⟨hgie, -, hrest⟩ := hhalt hh
  exact ⟨hgie, rfl, hrest⟩

/-- The reset values stand in the lists, and a block just reset neither halts nor sleeps (R54). -/
theorem ControlInv.resetTo (s : State) (wdt hold oc lp : Bool) (cnt : BitVec 16) :
    ControlInv (s.resetTo wdt hold oc lp cnt) := by
  have henc : EncodingInv (s.resetTo wdt hold oc lp cnt) := ⟨Nat.zero_le _, rfl, Nat.zero_le _, .inl rfl⟩
  exact .of_awake henc ⟨rfl, rfl⟩

/-! The effects of operations, and of the wait polls. -/

theorem OperationFrame.kick (ha : Awake s) : OperationFrame s s.kick :=
  ⟨rfl, fun _ => .refl _, ha, rfl, id⟩

theorem OperationFrame.awake (hs : OperationFrame r s) : Awake s := by
  obtain ⟨-, -, ha, -⟩ := hs
  exact ha

theorem OperationFrame.setWaitKind (hs : OperationFrame r s) {k : BitVec 3} (hk : k.toNat ≤ 5) :
    OperationFrame r { s with wKind := k } := by
  obtain ⟨hin, hwin, ha, hst, henc⟩ := hs
  exact ⟨hin, hwin, ha, hst, fun hr => (henc hr).setWaitKind hk⟩

theorem OperationFrame.endWait (hs : OperationFrame r s) : OperationFrame r { s with wKind := waitNone } :=
  hs.setWaitKind (Nat.zero_le _)

theorem OperationFrame.setFc (hs : OperationFrame r s) {id : BitVec 4} (hid : id.toNat ≤ 10) :
    OperationFrame r { s with ilkFc := id } := by
  obtain ⟨hin, hwin, ha, hst, henc⟩ := hs
  exact ⟨hin, hwin, ha, hst, fun hr => (henc hr).setFc hid⟩

theorem OperationFrame.setCadence (hs : OperationFrame r s) {k : BitVec 6} (hk : k = 32 ∨ k = 1) :
    OperationFrame r { s with ilkCadence := k } := by
  obtain ⟨hin, hwin, ha, hst, henc⟩ := hs
  exact ⟨hin, hwin, ha, hst, fun hr => (henc hr).setCadence hk⟩

theorem OperationFrame.serviceOverflow (hs : OperationFrame r s) : OperationFrame r s.serviceOverflow := by
  unfold State.serviceOverflow
  split <;> exact hs

theorem OperationFrame.tbRawstart (hs : OperationFrame r s) (d : BitVec 32) :
    OperationFrame r (tbRawstart d s) := hs.serviceOverflow

theorem OperationFrame.tbRawwaitIssue (hs : OperationFrame r s) (d : BitVec 32) :
    OperationFrame r (tbRawwaitIssue d s) := (hs.tbRawstart d).setWaitKind (WaitKind.code_le .raw)

theorem OperationFrame.tbRawended (hs : OperationFrame r s) : OperationFrame r (tbRawended s) :=
  hs.serviceOverflow

theorem OperationFrame.tbStartIssue (hs : OperationFrame r s) : OperationFrame r (tbStartIssue s) :=
  hs.setWaitKind (WaitKind.code_le .sync)

theorem OperationFrame.tbTickwaitIssue (hs : OperationFrame r s) :
    OperationFrame r (tbTickwaitIssue s) := hs.setWaitKind (WaitKind.code_le .tick)

theorem OperationFrame.mswaitIssue (hs : OperationFrame r s) (d : Nat) :
    OperationFrame r (mswaitIssue d s) := by
  simp only [Machine.mswaitIssue]
  split
  · exact hs.endWait
  · split <;> exact hs.setWaitKind (WaitKind.code_le _)

theorem OperationFrame.adcIsupdated (hs : OperationFrame r s) (rounds : BitVec 8) :
    OperationFrame r (adcIsupdated rounds s) := by
  unfold Machine.adcIsupdated
  split <;> exact hs

/-- A calibration takes the running sum, which is still that of `r`, as the bias (R167). -/
theorem WindowKept.calibrate {a b : ChannelAcc} (h : WindowKept a b) :
    WindowKept a { b with bias := b.sum, acc := 0 } :=
  have ⟨hwin, _⟩ := h
  ⟨hwin, .inr (ChannelAcc.sum_of_window hwin)⟩

theorem OperationFrame.adcCalbias (hs : OperationFrame r s) (ch : Channel) :
    OperationFrame r (adcCalbias ch s) := by
  obtain ⟨hin, hwin, hrest⟩ := hs
  cases ch with
  | ch0 => exact ⟨hin, fun | .ch0 => (hwin .ch0).calibrate | .ch1 => hwin .ch1, hrest⟩
  | ch1 => exact ⟨hin, fun | .ch0 => hwin .ch0 | .ch1 => (hwin .ch1).calibrate, hrest⟩

/-- A poll ends the wait, begins the next one after the wrap of the clock, or leaves it in progress. -/
theorem OperationFrame.waitPoll (hs : OperationFrame r s) (h : waitPoll s = .next t) :
    OperationFrame r t := by
  obtain ⟨-, rfl⟩ | ⟨-, rfl⟩ | ⟨-, rfl⟩ | ⟨-, rfl⟩ | ⟨-, rfl⟩ := waitPoll_next h
  case inl => unfold pollSync; split; exacts [hs.endWait, hs]
  case inr.inl => unfold pollMsNowrap; split; exacts [hs.endWait, hs]
  case inr.inr.inl => unfold pollMsWrapwait; split; exacts [hs.mswaitIssue _, hs]
  case inr.inr.inr.inl => unfold pollTick; split; exacts [hs.endWait, hs]
  case inr.inr.inr.inr => unfold pollRaw; split; exacts [hs.serviceOverflow.endWait, hs.serviceOverflow]

/-! How a foreground step ends. -/

theorem StepEffect.refl (s : State) : StepEffect s s :=
  ⟨rfl, fun _ => .refl _, fun h => ⟨le_rfl, h⟩, id⟩

theorem StepEffect.trans (hrs : StepEffect r s) (hst : StepEffect s t) : StepEffect r t where
  inputs := hst.inputs.trans hrs.inputs
  windows c := (hrs.windows c).trans (hst.windows c)
  advances hr := by
    obtain ⟨hle, hs⟩ := hrs.advances hr
    obtain ⟨hle', ht⟩ := hst.advances hs
    exact ⟨hle.trans hle', ht⟩
  control := hst.control ∘ hrs.control

theorem StepEffect.of_next {u : State} (h : (.next u : StepResult) = .next t) (hu : StepEffect r u) :
    StepEffect r t := by
  injection h with h
  exact h ▸ hu

/-- The foreground stays where it is. -/
theorem OperationFrame.effect (hs : OperationFrame r s) : StepEffect r s := by
  obtain ⟨hin, hwin, ha, hst, henc⟩ := hs
  exact ⟨hin, hwin, fun hr => ⟨hst ▸ le_rfl, hst ▸ hr⟩, fun ⟨hr, _⟩ => .of_awake (henc hr) ha⟩

/-- The sequencer moves to a position of the same state or a later one. -/
theorem StepEffect.goto {p : Position} (hs : OperationFrame r s)
    (hp : r.ilkState.toNat ≤ p.state.toNat) : StepEffect r (s.goto p) := by
  obtain ⟨hin, hwin, ha, -, henc⟩ := hs
  exact ⟨hin, hwin, fun _ => ⟨hp, p.state_le⟩, fun ⟨hr, _⟩ => .of_awake ((henc hr).goto p) ha⟩

theorem StepEffect.branch {p q : Position} (hs : OperationFrame r s)
    (hp : r.ilkState.toNat ≤ p.state.toNat) (hq : r.ilkState.toNat ≤ q.state.toNat) :
    StepEffect r (s.branch p q) := by
  unfold State.branch
  split
  · exact .goto hs hp
  · exact .goto hs hq

theorem StepEffect.note {p : Position} (hs : OperationFrame r s) (fc : FatalCondition)
    (hp : r.ilkState.toNat ≤ p.state.toNat) : StepEffect r (s.note fc p) :=
  .goto (hs.setFc fc.code_le) hp

/-- The block halts: the halt's state 5 is the last one (R272). -/
theorem StepEffect.haltCode (hs : OperationFrame r s) {id : BitVec 4} (hne : id ≠ 0)
    (hid : s.ilkFc.toNat ≤ 10 → id.toNat ≤ 10) : StepEffect r (s.haltCode id) := by
  obtain ⟨hin, hwin, -, -, henc⟩ := hs
  refine ⟨hin, hwin, fun hr => ⟨hr, le_rfl⟩, fun ⟨hr, _⟩ => ?_⟩
  have ⟨_, _, hfc, _⟩ := henc hr
  exact .haltCode (henc hr) (hid hfc) hne

theorem StepEffect.halt (hs : OperationFrame r s) (fc : FatalCondition) : StepEffect r (s.halt fc) :=
  .haltCode hs fc.code_ne_zero fun _ => fc.code_le

/-- `SYS.HALT` names FC10 or the recorded condition, which is a listed one (R217). -/
theorem StepEffect.sysHalt (hs : OperationFrame r s) (h : sysHalt s = .next t) : StepEffect r t := by
  obtain ⟨id, hne, hmaster, hrecorded, rfl⟩ := sysHalt_next h
  refine .haltCode (s := s.quiet) hs hne fun (hfc : s.ilkFc.toNat ≤ 10) => ?_
  by_cases h0 : s.ilkFc = 0
  · rw [hmaster h0]; decide
  · rwa [hrecorded h0]

/-- The foreground falls asleep with interrupts on and no wait in progress (R216). -/
theorem StepEffect.sleep (hs : StepEffect r s) (ha : Awake s) (hw : s.wKind = 0) (hgie : s.gie = true) :
    StepEffect r { s with sleeping := true } := by
  obtain ⟨hin, hwin, hadv, hctl⟩ := hs
  obtain ⟨hhalted, -⟩ := ha
  refine ⟨hin, hwin, hadv, fun hr => ?_⟩
  obtain ⟨henc, -, -⟩ := hctl hr
  exact ⟨henc, by simp [HaltInv, hhalted], fun _ => ⟨hgie, hw, hhalted⟩⟩

theorem StepEffect.sysSleep (hs : StepEffect r s) (ha : Awake s) (hw : s.wKind = 0)
    (h : sysSleep s = .next t) : StepEffect r t := by
  obtain ⟨hgie, ⟨-, rfl⟩ | ⟨-, rfl⟩⟩ := sysSleep_next h
  · exact hs
  · exact hs.sleep ha hw hgie

/-! The sequencer. -/

theorem StepEffect.stepPoweredDown (hs : OperationFrame r s) (hr : r.ilkState = 0) :
    StepEffect r (stepPoweredDown s) := by
  unfold Machine.stepPoweredDown
  split
  · exact hs.effect
  · split
    · exact .halt (s := s.quiet) hs _
    · exact .goto hs (by rw [hr]; decide)

theorem StepEffect.stepCheckBeforePower (hs : OperationFrame r s) (hr : r.ilkState = 1) :
    StepEffect r (stepCheckBeforePower s) := by
  unfold Machine.stepCheckBeforePower
  dsimp only
  split
  · exact .halt (s := ocTripped s) hs _
  · exact .goto hs (by rw [hr]; decide)

theorem StepEffect.stepSettlePoll (hs : OperationFrame r s) (hr : r.ilkState = 2) :
    StepEffect r (stepSettlePoll s) := by
  unfold Machine.stepSettlePoll
  dsimp only
  split
  · exact .note (s := ocTripped s) hs _ (by rw [hr]; decide)
  · exact .goto hs (by rw [hr]; decide)

theorem StepEffect.stepLowPowerCheck (hs : OperationFrame r s) (hr : r.ilkState = 3) :
    StepEffect r (stepLowPowerCheck s) := by
  unfold Machine.stepLowPowerCheck
  dsimp only
  split
  · exact .note (s := lpTripped s) hs _ (by rw [hr]; decide)
  · exact .goto hs (by rw [hr]; decide)

theorem StepEffect.stepVerdict (hs : OperationFrame r s) (hr : r.ilkState = 4) :
    StepEffect r (stepVerdict s) := by
  unfold Machine.stepVerdict
  split
  · exact .goto (hs.setCadence (.inl rfl)) (by rw [hr]; decide)
  · exact .note (s := { s with pwrEn := false }) hs _ (by rw [hr]; decide)
  · exact .note hs _ (by rw [hr]; decide)

theorem StepEffect.stepTickBranch (hs : OperationFrame r s) (hr : r.ilkState = 4) :
    StepEffect r (stepTickBranch s) := by
  unfold Machine.stepTickBranch
  dsimp only
  split <;> exact .goto hs (by rw [hr]; decide)

theorem StepEffect.stepLampPoll (hs : OperationFrame r s) (hr : r.ilkState = 4) :
    StepEffect r (stepLampPoll s) := by
  unfold Machine.stepLampPoll
  dsimp only
  split
  · exact .goto (hs.setCadence (.inr rfl)) (by rw [hr]; decide)
  · exact .goto hs (by rw [hr]; decide)

theorem StepEffect.microStep {p : Position} (hs : OperationFrame r s) (hw : s.wKind = 0)
    (hp : r.ilkState = p.state) (h : microStep p s = .next t) : StepEffect r t := by
  have hle : ∀ q : Position, p.state.toNat ≤ q.state.toNat → r.ilkState.toNat ≤ q.state.toNat :=
    fun q hq => hp ▸ hq
  cases p with
  | pd0 => exact of_next h (stepPoweredDown hs hp)
  | cb0 =>
    unfold Machine.microStep at h
    obtain ⟨-, rfl⟩ := withDuration_next h
    exact .goto (hs.tbRawwaitIssue _) (hle _ (by decide))
  | ap1 =>
    unfold Machine.microStep at h
    obtain ⟨-, rfl⟩ := withDuration_next h
    exact .goto (hs.tbRawstart _) (hle _ (by decide))
  | cb3 | ss5 => exact of_next h (.branch (hs.adcIsupdated _) (hle _ (by decide)) (hle _ (by decide)))
  | ap3 => exact of_next h (.branch hs.tbRawended (hle _ (by decide)) (hle _ (by decide)))
  | cb4 => exact of_next h (.goto (hs.adcCalbias _) (hle _ (by decide)))
  | cb5 => exact of_next h (stepCheckBeforePower hs hp)
  | ap2 => exact of_next h (stepSettlePoll hs hp)
  | cl0 => exact of_next h (stepLowPowerCheck hs hp)
  | ap7 | sd2 => exact sysHalt hs h
  | ss1 => exact of_next h (.goto hs.tbStartIssue (hle _ (by decide)))
  | ss2 => exact of_next h (.goto (hs.setCadence (.inl rfl)) (hle _ (by decide)))
  | ss4 => exact sysSleep (.goto hs (hle .ss5 (by decide))) hs.awake hw h
  | ss9 => exact of_next h (stepVerdict hs hp)
  | ss10 => exact of_next h (stepTickBranch hs hp)
  | ss11 => exact of_next h (stepLampPoll hs hp)
  | cb1 | cb2 | ap0 | ap4 | ap5 | ap6 | cl1 | ss0 | ss3 | ss6 | ss7 | ss8 | ss12 | sd0 | sd1 =>
    exact of_next h (.goto hs (hle _ (by decide)))

theorem foregroundStep_effect (h : foregroundStep s = .next t) : StepEffect s t := by
  obtain ⟨hhalted, hsleeping, ⟨-, hpoll⟩ | ⟨hw, -, hseq⟩⟩ := foregroundStep_next h
  · exact (OperationFrame.kick ⟨hhalted, hsleeping⟩).waitPoll hpoll |>.effect
  · obtain ⟨p, hp, hmicro⟩ := sequencerStep_next hseq
    obtain ⟨hstate, -⟩ := State.position_some hp
    exact .microStep (.kick ⟨hhalted, hsleeping⟩) hw hstate hmicro

/-! The instructions. -/

theorem operation_effect {f : State → StepResult} (h : operation s f = .next t)
    (hf : ∀ u, OperationFrame s u → u.wKind = 0 → f u = .next t → StepEffect s t) : StepEffect s t := by
  obtain ⟨⟨-, hhalted, hsleeping, hw⟩, h⟩ := operation_next h
  exact hf _ (.kick ⟨hhalted, hsleeping⟩) hw h

theorem simpleOperation_effect {f : State → State} (h : simpleOperation s f = .next t)
    (hf : ∀ u, OperationFrame s u → OperationFrame s (f u)) : StepEffect s t :=
  operation_effect h fun u hu _ h => .of_next h (hf u hu).effect

theorem durationOperation_effect {d : BitVec 32} {f : State → State}
    (h : operation s (fun u => withDuration d u f) = .next t)
    (hf : ∀ u, OperationFrame s u → OperationFrame s (f u)) : StepEffect s t :=
  operation_effect h fun u hu _ h => by
    obtain ⟨-, rfl⟩ := withDuration_next h
    exact (hf u hu).effect

/-- Taking an interrupt wakes the foreground and writes nothing else before the handler (R266). -/
theorem takeInterrupt_effect {x : IrqSource} {body : State → StepResult}
    (h : takeInterrupt x s body = .next t)
    (hf : ∀ u, OperationFrame s u → body u = .next t → StepEffect s t) : StepEffect s t := by
  obtain ⟨htake, h⟩ := takeInterrupt_next h
  obtain ⟨-, hhalted, -⟩ := takeable_next htake
  have hwoken : OperationFrame s { s.quiet with sleeping := false } :=
    ⟨rfl, fun _ => .refl _, ⟨hhalted, rfl⟩, rfl, id⟩
  exact hf _ hwoken h

/-- The instructions that write no input and no window: neither an input event, nor the conversion handler,
nor a reset. -/
def keepsInputsAndWindows : Instr → Bool
  | .evCount _ | .evOc _ | .evLp _ | .evLamp _ | .irqAdc | .evWdtexp _ _ _ _ | .evPor _ _ _ _ => false
  | _ => true

theorem exec_effect {i : Instr} (hi : keepsInputsAndWindows i = true) (h : exec i s = .next t) :
    StepEffect s t := by
  cases i with
  | evCount _ | evOc _ | evLp _ | evLamp _ | irqAdc | evWdtexp _ _ _ _ | evPor _ _ _ _ => cases hi
  | tbStart => exact simpleOperation_effect h fun _ hu => hu.tbStartIssue
  | tbTickwait => exact simpleOperation_effect h fun _ hu => hu.tbTickwaitIssue
  | tbMswait d => exact durationOperation_effect h fun _ hu => hu.mswaitIssue _
  | tbRawstart d => exact durationOperation_effect h fun _ hu => hu.tbRawstart d
  | tbRawwait d => exact durationOperation_effect h fun _ hu => hu.tbRawwaitIssue d
  | tbRawended => exact simpleOperation_effect h fun _ hu => hu.tbRawended
  | adcIsupdated rounds => exact simpleOperation_effect h fun _ hu => hu.adcIsupdated rounds
  | adcCalbias ch => exact simpleOperation_effect h fun _ hu => hu.adcCalbias ch
  | sysSleep => exact operation_effect h fun _ hu hw h => .sysSleep hu.effect hu.awake hw h
  | sysHalt => exact operation_effect h fun _ hu _ h => .sysHalt hu h
  | tbStop | tbNow | tbTicknum | adcStart | adcStop | adcReading _ | adcAcccharge | ocTripped | ocPending
  | ocClear | ocArm | lpTripped | lpPending | lpClear | lpArm | pwrOn | pwrOff | lrstAssert | lrstRelease
  | sysIrqen | sysIrqdis | wdtKick | lampPoll =>
    exact simpleOperation_effect h fun _ hu => hu
  | evAdcdone x =>
    obtain ⟨-, -, rfl⟩ := execEvAdcdone_next h
    exact ⟨rfl, fun _ => .refl _, fun hr => ⟨le_rfl, hr⟩, id⟩
  | irqOc =>
    exact takeInterrupt_effect h fun u hu h => .of_next h (.halt (s := { u with pwrEn := false }) hu _)
  | irqLp =>
    exact takeInterrupt_effect h fun u hu h =>
      .of_next h (.halt (s := { u with pwrEn := false, lampRst := true }) hu _)
  | irqTov =>
    exact takeInterrupt_effect h fun u hu h =>
      .of_next h (OperationFrame.effect (s := u.countOverflow) hu)
  | fgStep n =>
    obtain ⟨-, hsteps⟩ := execFgStep_next h
    exact foregroundSteps_keeps (fun _ _ hu h => hu.trans (foregroundStep_effect h)) _ _ _ (.refl s) hsteps

/-- The conversion handler slides the window of the selected channel and gives it an accumulator; of the
registers of `State.inputs` and `ControlInv` it writes `sleeping` only (R161, R266). -/
theorem exec_irqAdc_next (h : exec .irqAdc s = .next t) :
    ∃ (acc src : BitVec 32) (mux : Channel),
      t = { State.setChan { s.quiet with sleeping := false } s.adcMux
              { (s.chan s.adcMux).slide s.adcData with acc := acc } with
            src := src, adcMux := mux, adcFlag := false } := by
  obtain ⟨-, hbody⟩ := takeInterrupt_next h
  obtain ⟨acc, n, -, -, rfl⟩ := handleAdc_next hbody
  exact ⟨_, _, _, rfl⟩

/-! The rings (R37, R40): what writes them, and that each running sum stays the sum of its ring. -/

theorem exec_keeps_windows {i : Instr} (hi : i ≠ .irqAdc) (hr : isReset i = false)
    (h : exec i s = .next t) (c : Channel) : WindowKept (s.chan c) (t.chan c) := by
  cases i with
  | irqAdc => exact absurd rfl hi
  | evWdtexp _ _ _ _ | evPor _ _ _ _ => cases hr
  | evCount n =>
    obtain ⟨-, rfl⟩ := execEvCount_next h
    exact .refl _
  | evOc _ | evLp _ | evLamp _ =>
    injection h with h
    subst h
    exact .refl _
  | _ => exact (exec_effect rfl h).windows c

/-- Settles O41: a kept window has the same ring, sum and cursor. -/
theorem onlyTheHandlerWritesTheRings : Obligations.OnlyTheHandlerWritesTheRings := by
  intro i s t hi hr h c
  obtain ⟨hwin, -⟩ := exec_keeps_windows hi hr h c
  obtain ⟨hring, hsum, hcur⟩ : (t.chan c).ring = (s.chan c).ring ∧ (t.chan c).sum = (s.chan c).sum ∧
      (t.chan c).cur = (s.chan c).cur := by simpa [ChannelAcc.window] using hwin
  refine ⟨fun k => ?_, hsum, hcur⟩
  simp only [State.ringAt, ChannelAcc.entry, hring]

/-- `WindowInv` on one channel. -/
abbrev ChannelAcc.SumInv (a : ChannelAcc) : Prop := a.sum.toNat = ringSum a ∧ a.bias.toNat ≤ 16368

/-- A calibrated bias is the sum of a ring, so it is in the range of one (R38). -/
theorem ChannelAcc.SumInv.kept {a b : ChannelAcc} (ha : a.SumInv) (hk : WindowKept a b) : b.SumInv := by
  obtain ⟨hsum, hbias⟩ := ha
  obtain ⟨hwin, hb⟩ := hk
  refine ⟨by rw [sum_of_window hwin, ringSum_of_window hwin, hsum], ?_⟩
  rcases hb with hb | hb
  · rwa [hb]
  · rw [hb, hsum]
    exact ringSum_le a

theorem ChannelAcc.SumInv.slide {a : ChannelAcc} (ha : a.SumInv) (x : Sample) (acc : BitVec 32) :
    ChannelAcc.SumInv { a.slide x with acc := acc } := by
  obtain ⟨hsum, hbias⟩ := ha
  exact ⟨slide_sum a x hsum, hbias⟩

theorem ChannelAcc.sumInv_reset : ChannelAcc.reset.SumInv := ⟨ringSum_reset.symm, Nat.zero_le _⟩

theorem WindowInv.chan (hs : WindowInv s) (c : Channel) : (s.chan c).SumInv := by
  obtain ⟨h0, h1⟩ := hs
  cases c
  · exact h0
  · exact h1

theorem WindowInv.setChan (hs : WindowInv s) (c : Channel) {a : ChannelAcc} (ha : a.SumInv) :
    WindowInv (s.setChan c a) := by
  obtain ⟨h0, h1⟩ := hs
  cases c
  · exact ⟨ha, h1⟩
  · exact ⟨h0, ha⟩

theorem WindowInv.resetTo (s : State) (wdt hold oc lp : Bool) (cnt : BitVec 16) :
    WindowInv (s.resetTo wdt hold oc lp cnt) := ⟨ChannelAcc.sumInv_reset, ChannelAcc.sumInv_reset⟩

theorem WindowInv.exec {i : Instr} (hs : WindowInv s) (h : exec i s = .next t) : WindowInv t := by
  cases i with
  | evWdtexp hold oc lp cnt =>
    obtain ⟨-, rfl⟩ := execEvWdtexp_next h
    exact resetTo s _ hold oc lp cnt
  | evPor hold oc lp cnt =>
    injection h with h
    subst h
    exact resetTo s _ hold oc lp cnt
  | irqAdc =>
    obtain ⟨acc, _, _, rfl⟩ := exec_irqAdc_next h
    have hslid := (hs.chan s.adcMux).slide s.adcData acc
    exact setChan (s := { s.quiet with sleeping := false }) hs s.adcMux hslid
  | _ =>
    have hkept := exec_keeps_windows (by nofun) rfl h
    exact ⟨(hs.chan .ch0).kept (hkept .ch0), (hs.chan .ch1).kept (hkept .ch1)⟩

/-- Settles O54: an executed word keeps the windows or slides one, and no other step writes them. -/
theorem stepKeepsTheRunningSums : Obligations.StepKeepsTheRunningSums := by
  intro s t hs h
  obtain ⟨-, ⟨-, rfl⟩ | ⟨w, rest, -, ⟨i, -, hexec⟩ | ⟨e, -, hillegal⟩⟩⟩ := step_next h
  · exact hs
  · exact WindowInv.exec (s := { s with trace := rest }) hs hexec
  · obtain ⟨-, -, rfl⟩ := illegalWord_next hillegal
    exact hs

/-! The interlock state, and the registers that direct the foreground. -/

theorem ControlInv.setChan (hs : ControlInv s) (c : Channel) (a : ChannelAcc) :
    ControlInv (s.setChan c a) := by
  cases c <;> exact hs

theorem exec_advances {i : Instr} (hr : isReset i = false) (h : exec i s = .next t)
    (hs : s.ilkState.toNat ≤ 5) : s.ilkState.toNat ≤ t.ilkState.toNat ∧ t.ilkState.toNat ≤ 5 := by
  cases i with
  | evWdtexp _ _ _ _ | evPor _ _ _ _ => cases hr
  | evCount n =>
    obtain ⟨-, rfl⟩ := execEvCount_next h
    exact ⟨le_rfl, hs⟩
  | evOc _ | evLp _ | evLamp _ =>
    injection h with h
    subst h
    exact ⟨le_rfl, hs⟩
  | irqAdc =>
    obtain ⟨_, _, _, rfl⟩ := exec_irqAdc_next h
    simpa using hs
  | _ => exact (exec_effect rfl h).advances hs

/-- Settles O38: the sequencer moves to its own state or a later one, and a halt to the last. -/
theorem onlyAResetGoesBack : Obligations.OnlyAResetGoesBack := by
  intro i s t hs hr h
  obtain ⟨hle, -⟩ := exec_advances hr h hs
  exact hle

theorem ControlInv.exec {i : Instr} (hs : ControlInv s) (h : exec i s = .next t) : ControlInv t := by
  cases i with
  | evWdtexp hold oc lp cnt =>
    obtain ⟨-, rfl⟩ := execEvWdtexp_next h
    exact resetTo s _ hold oc lp cnt
  | evPor hold oc lp cnt =>
    injection h with h
    subst h
    exact resetTo s _ hold oc lp cnt
  | evCount n =>
    obtain ⟨-, rfl⟩ := execEvCount_next h
    exact hs
  | evOc _ | evLp _ | evLamp _ =>
    injection h with h
    subst h
    exact hs
  | irqAdc =>
    obtain ⟨acc, _, _, rfl⟩ := exec_irqAdc_next h
    exact setChan (wake (s := s.quiet) hs) s.adcMux _
  | _ => exact (exec_effect rfl h).control hs

/-- Settles O56: an executed word keeps the three invariants together, and no other step writes a
register they speak of. -/
theorem stepKeepsEncodingsHaltAndSleep : Obligations.StepKeepsEncodingsHaltAndSleep := by
  intro s t hs h
  obtain ⟨-, ⟨-, rfl⟩ | ⟨w, rest, -, ⟨i, -, hexec⟩ | ⟨e, -, hillegal⟩⟩⟩ := step_next h
  · exact hs
  · exact ControlInv.exec (s := { s with trace := rest }) hs hexec
  · obtain ⟨-, -, rfl⟩ := illegalWord_next hillegal
    exact hs

/-! The inputs. -/

theorem State.inputs_eq (h : t.inputs = s.inputs) :
    t.cfg = s.cfg ∧ t.trace = s.trace ∧ t.tbCnt = s.tbCnt ∧ t.ocLevel = s.ocLevel ∧
    t.lpLevel = s.lpLevel ∧ t.lampChanged = s.lampChanged ∧ t.rstCauseWdt = s.rstCauseWdt ∧
    t.seqHold = s.seqHold := by
  simpa [State.inputs] using h

/-- A write to an input register: the counter, a detector's level or the lamp answer. -/
def isInputEvent : Instr → Bool
  | .evCount _ | .evOc _ | .evLp _ | .evLamp _ => true
  | _ => false

theorem exec_keeps_inputs {i : Instr} (hi : isInputEvent i = false) (hr : isReset i = false)
    (h : exec i s = .next t) : t.inputs = s.inputs := by
  cases i with
  | evCount _ | evOc _ | evLp _ | evLamp _ => cases hi
  | evWdtexp _ _ _ _ | evPor _ _ _ _ => cases hr
  | irqAdc =>
    obtain ⟨_, _, _, rfl⟩ := exec_irqAdc_next h
    simp [State.inputs]
  | _ => exact (exec_effect rfl h).inputs

/-- Settles O42: each input event writes its own register, and a reset leaves the model's two fields. -/
theorem inputsAreWrittenByTheirEventsOnly : Obligations.InputsAreWrittenByTheirEventsOnly := by
  intro i s t h
  cases i with
  | evWdtexp hold oc lp cnt =>
    obtain ⟨-, rfl⟩ := execEvWdtexp_next h
    exact ⟨rfl, rfl, nofun⟩
  | evPor hold oc lp cnt =>
    injection h with h
    subst h
    exact ⟨rfl, rfl, nofun⟩
  | evCount n =>
    obtain ⟨-, rfl⟩ := execEvCount_next h
    exact ⟨rfl, rfl, fun _ =>
      ⟨fun hn => absurd rfl (hn n), fun _ => rfl, fun _ => rfl, fun _ => rfl, rfl, rfl⟩⟩
  | evOc l =>
    injection h with h
    subst h
    exact ⟨rfl, rfl, fun _ =>
      ⟨fun _ => rfl, fun hl => absurd rfl (hl l), fun _ => rfl, fun _ => rfl, rfl, rfl⟩⟩
  | evLp l =>
    injection h with h
    subst h
    exact ⟨rfl, rfl, fun _ =>
      ⟨fun _ => rfl, fun _ => rfl, fun hl => absurd rfl (hl l), fun _ => rfl, rfl, rfl⟩⟩
  | evLamp l =>
    injection h with h
    subst h
    exact ⟨rfl, rfl, fun _ =>
      ⟨fun _ => rfl, fun _ => rfl, fun _ => rfl, fun hl => absurd rfl (hl l), rfl, rfl⟩⟩
  | _ =>
    obtain ⟨hcfg, htrace, hcnt, hoc, hlp, hlamp, hcause, hstrap⟩ :=
      State.inputs_eq (exec_keeps_inputs rfl rfl h)
    exact ⟨hcfg, htrace, fun _ =>
      ⟨fun _ => hcnt, fun _ => hoc, fun _ => hlp, fun _ => hlamp, hcause, hstrap⟩⟩

/-! The reset state. -/

/-- `State.reset` is what a power-on reset with every draw 0 makes of itself. -/
theorem resetTo_reset : State.reset.resetTo false false false false 0 = State.reset := rfl

/-- Settles O26: the running-sum, width, encoding, halt and sleep invariants hold after every reset; the
other three are evaluated in the one state. -/
theorem resetStateIsAPowerOnResetAndMeetsTheInvariants :
    Obligations.ResetStateIsAPowerOnResetAndMeetsTheInvariants := by
  have hwindow : WindowInv State.reset := resetTo_reset ▸ WindowInv.resetTo State.reset _ _ _ _ _
  have hwidth : WidthInv State.reset := resetTo_reset ▸ WidthInv.resetTo State.reset _ _ _ _ _
  have hcontrol : ControlInv State.reset := resetTo_reset ▸ ControlInv.resetTo State.reset _ _ _ _ _
  obtain ⟨hencoding, hhalt, hsleep⟩ := hcontrol
  have hvalid : State.reset.cfg.valid = true := by decide +kernel
  have hmaster : MasterInv State.reset := by decide
  have hpower : PowerInv State.reset := by decide
  have harm : ArmInv State.reset := by decide
  exact ⟨congrArg _ resetTo_reset, hvalid, hwindow, hwidth, hencoding, hhalt, hsleep,
    hmaster, hpower, harm⟩

end Sys2Proof.Machine

/-! PROOF. The ring access of the conversion handler (spec/20_memory.md R81): the one entry it writes, the
cursor it advances, and the channel it leaves. -/

namespace Sys2Proof.Machine

variable {s t : State}

/-- The conversion handler slides the selected channel's window and gives it an accumulator (R161). -/
theorem exec_irqAdc_chan_adcMux (h : exec .irqAdc s = .next t) :
    ∃ acc, t.chan s.adcMux = { (s.chan s.adcMux).slide s.adcData with acc := acc } := by
  obtain ⟨acc, _, _, rfl⟩ := exec_irqAdc_next h
  exact ⟨acc, State.chan_setChan { s.quiet with sleeping := false } s.adcMux _⟩

/-- The conversion handler leaves the channel that is not selected (R81). -/
theorem exec_irqAdc_chan_ne (h : exec .irqAdc s = .next t) {c : Channel} (hc : c ≠ s.adcMux) :
    t.chan c = s.chan c := by
  obtain ⟨_, _, _, rfl⟩ := exec_irqAdc_next h
  exact State.chan_setChan_ne { s.quiet with sleeping := false } _ hc

/-- An entry of the selected channel after the handler: the sample at the cursor, elsewhere the old entry. -/
theorem exec_irqAdc_ringAt_adcMux (h : exec .irqAdc s = .next t) (k : BitVec 4) :
    t.ringAt s.adcMux k = if k = (s.chan s.adcMux).cur then s.adcData else s.ringAt s.adcMux k := by
  obtain ⟨acc, hslid⟩ := exec_irqAdc_chan_adcMux h
  calc t.ringAt s.adcMux k = ((s.chan s.adcMux).slide s.adcData).entry k := congrArg (·.entry k) hslid
    _ = _ := ChannelAcc.entry_slide _ _ k

/-- The selected channel's cursor advances by one in four bits (R81). -/
theorem exec_irqAdc_cur_adcMux (h : exec .irqAdc s = .next t) :
    (t.chan s.adcMux).cur = (s.chan s.adcMux).cur + 1 := by
  obtain ⟨_, hslid⟩ := exec_irqAdc_chan_adcMux h
  rw [hslid, ChannelAcc.slide_cur]

/-- Settles O14: the selected channel slides its window by one sample, the other one is left. -/
theorem ringAccessIsChannelAndCursorWithPostIncrement :
    Obligations.RingAccessIsChannelAndCursorWithPostIncrement := by
  intro s t h
  refine ⟨fun c k => ?_, ?_, fun c hc => exec_irqAdc_chan_ne h hc⟩
  · by_cases hc : c = s.adcMux
    · subst hc
      simpa using exec_irqAdc_ringAt_adcMux h k
    · rw [State.ringAt, exec_irqAdc_chan_ne h hc, if_neg fun ⟨hck, _⟩ => hc hck, State.ringAt]
  · rw [exec_irqAdc_cur_adcMux h, BitVec.toNat_add]
    rfl

end Sys2Proof.Machine

/-! PROOF. The decoder and the encoder (spec/30_encoding.md R100 to R104, R107, R109). A `Layout` says of a
format that its test, its operand, the encoder's placing of that operand and the mask speak of the same bits;
a `Row` says of an opcode that the decoder, the encoder, the match and the mask give it one layout. There is
one layout per format, every instruction stands in a row, and every opcode the decoder accepts is the opcode
of an instruction; the round trips and the match-and-mask statement follow from these facts. -/

namespace Sys2Proof

/-! The bits a format reserves: as it tests them, as the encoder leaves them, as the mask covers them. -/

theorem setWidth_add {n k : Nat} (v : BitVec k) : v.setWidth (n + k) = 0#n ++ v := by
  have hlt : v.toNat < 2 ^ (n + k) := v.isLt.trans_le (Nat.pow_le_pow_right (by decide) (by omega))
  exact BitVec.eq_of_toNat_eq (by simpa using Nat.mod_eq_of_lt hlt)

theorem extractLsb'_setWidth_add {n k : Nat} (v : BitVec k) : (v.setWidth (n + k)).extractLsb' 0 k = v := by
  rw [setWidth_add]
  exact BitVec.extractLsb'_append_eq_right

theorem extractLsb'_eq_zero_iff {n k : Nat} (x : BitVec (n + k)) :
    x.extractLsb' k n = 0 ↔ ∃ v : BitVec k, x = v.setWidth (n + k) := by
  simp only [setWidth_add]
  constructor
  · intro h
    refine ⟨x.extractLsb' 0 k, ?_⟩
    calc x = x.extractLsb' k n ++ x.extractLsb' 0 k := BitVec.extractLsb'_append_extractLsb'.symm
      _ = 0#n ++ x.extractLsb' 0 k := by rw [h]; rfl
  · rintro ⟨v, rfl⟩
    exact BitVec.extractLsb'_append_eq_left

theorem and_eq_zero_iff_extractLsb' {n k : Nat} (x : BitVec (n + k)) :
    x &&& (BitVec.allOnes n ++ 0#k) = 0 ↔ x.extractLsb' k n = 0 := by
  have hmasked : x &&& (BitVec.allOnes n ++ 0#k) = x.extractLsb' k n ++ 0#k := by
    calc x &&& (BitVec.allOnes n ++ 0#k)
        = (x.extractLsb' k n ++ x.extractLsb' 0 k) &&& (BitVec.allOnes n ++ 0#k) := by
          rw [BitVec.extractLsb'_append_extractLsb']
      _ = x.extractLsb' k n ++ 0#k := by rw [BitVec.and_append, BitVec.and_allOnes, BitVec.and_zero]
  rw [hmasked, show (0 : BitVec (n + k)) = 0#n ++ 0#k from BitVec.zero_append_zero.symm,
    BitVec.append_left_inj]
  rfl

theorem and_allOnes_eq_zero_iff {n : Nat} (x : BitVec n) : x &&& BitVec.allOnes n = 0 ↔ x = 0 := by
  rw [BitVec.and_allOnes]

theorem levelBits_iff : ∀ x : BitVec 8, x.extractLsb' 1 7 = 0 ↔ ∃ b, x = bitInA b := by decide

theorem resetBits_iff : ∀ x : BitVec 8,
    x.extractLsb' 3 5 = 0 ↔ ∃ hold oc lp, x = resetBitsInA hold oc lp := by decide

/-! The layouts of the seven formats (R101). -/

/-- A format that reads the operand `v x y` where `p x y` holds: the words it reads are those that carry an
operand `u` as `a u` and `d u`, and those whose operand bits under the mask are 0; the mask covers the whole
opcode. -/
structure Layout {α : Type} (p : BitVec 8 → BitVec 32 → Prop) (v : BitVec 8 → BitVec 32 → α)
    (a : α → BitVec 8) (d : α → BitVec 32) (mask : TraceWord) : Prop where
  covers : fieldOp mask = BitVec.allOnes 8
  filled : ∀ x y, p x y ↔ ∃ u, x = a u ∧ y = d u
  operand : ∀ u, v (a u) (d u) = u
  masked : ∀ x y, x &&& fieldA mask = 0 ∧ y &&& fieldD mask = 0 ↔ p x y

theorem layoutN : Layout (fun x y => x = 0 ∧ y = 0) (fun _ _ => ()) (fun _ => 0) (fun _ => 0)
    0xFFFFFFFFFFFF where
  covers := by decide
  filled _ _ := ⟨fun h => ⟨(), h⟩, fun ⟨_, h⟩ => h⟩
  operand _ := rfl
  masked x y := and_congr (and_allOnes_eq_zero_iff x) (and_allOnes_eq_zero_iff y)

theorem layoutD : Layout (fun x _ => x = 0) (fun _ y => y) (fun _ => 0) id 0xFFFF00000000 where
  covers := by decide
  filled _ y := ⟨fun h => ⟨y, h, rfl⟩, fun ⟨_, h, _⟩ => h⟩
  operand _ := rfl
  masked x _ := (and_iff_left BitVec.and_zero).trans (and_allOnes_eq_zero_iff x)

theorem layoutR : Layout (fun _ y => y = 0) (fun x _ => x) id (fun _ => 0) 0xFF00FFFFFFFF where
  covers := by decide
  filled x _ := ⟨fun h => ⟨x, rfl, h⟩, fun ⟨_, _, h⟩ => h⟩
  operand _ := rfl
  masked _ y := (and_iff_right BitVec.and_zero).trans (and_allOnes_eq_zero_iff y)

theorem layoutL : Layout (fun x y => x.extractLsb' 1 7 = 0 ∧ y = 0) (fun x _ => x.getLsbD 0) bitInA
    (fun _ => 0) 0xFFFEFFFFFFFF where
  covers := by decide
  filled x _ := (and_congr_left' (levelBits_iff x)).trans exists_and_right.symm
  operand u := bitInA_zero u
  masked x y := and_congr (and_eq_zero_iff_extractLsb' (n := 7) (k := 1) x) (and_allOnes_eq_zero_iff y)

theorem layoutC : Layout (fun x y => x.extractLsb' 1 7 = 0 ∧ y = 0) (fun x _ => channelOfBit (x.getLsbD 0))
    (fun c => bitInA c.bit) (fun _ => 0) 0xFFFEFFFFFFFF where
  covers := by decide
  filled x y := (layoutL.filled x y).trans
    ⟨fun ⟨b, hb⟩ => ⟨channelOfBit b, by cases b <;> exact hb⟩, fun ⟨c, hc⟩ => ⟨c.bit, hc⟩⟩
  operand c := (congrArg channelOfBit (layoutL.operand c.bit)).trans (channelOfBit_bit c)
  masked := layoutL.masked

theorem layoutS : Layout (fun x y => x = 0 ∧ y.extractLsb' 10 22 = 0) (fun _ y => y.extractLsb' 0 10)
    (fun _ => 0) (fun s : Sample => s.setWidth 32) 0xFFFFFFFFFC00 where
  covers := by decide
  filled _ y := (and_congr_right' (extractLsb'_eq_zero_iff (n := 22) (k := 10) y)).trans exists_and_left.symm
  operand := extractLsb'_setWidth_add (n := 22)
  masked x y := and_congr (and_allOnes_eq_zero_iff x) (and_eq_zero_iff_extractLsb' (n := 22) (k := 10) y)

/-- The operands of format X: the strap, the two levels, the counter. -/
abbrev ResetDraws := Bool × Bool × Bool × BitVec 16

theorem layoutX : Layout (fun x y => x.extractLsb' 3 5 = 0 ∧ y.extractLsb' 16 16 = 0)
    (fun x y => ((x.getLsbD 0, x.getLsbD 1, x.getLsbD 2, y.extractLsb' 0 16) : ResetDraws))
    (fun u => resetBitsInA u.1 u.2.1 u.2.2.1) (fun u => u.2.2.2.setWidth 32) 0xFFF8FFFF0000 where
  covers := by decide
  filled x y := by
    refine (and_congr (resetBits_iff x) (extractLsb'_eq_zero_iff (n := 16) (k := 16) y)).trans ⟨?_, ?_⟩
    · rintro ⟨⟨hold, oc, lp, hx⟩, cnt, hy⟩
      exact ⟨(hold, oc, lp, cnt), hx, hy⟩
    · rintro ⟨⟨hold, oc, lp, cnt⟩, hx, hy⟩
      exact ⟨⟨hold, oc, lp, hx⟩, cnt, hy⟩
  operand u := by
    obtain ⟨hold, oc, lp, cnt⟩ := u
    have hcnt : (cnt.setWidth 32).extractLsb' 0 16 = cnt := extractLsb'_setWidth_add (n := 16) cnt
    simp [hcnt]
  masked x y := and_congr (and_eq_zero_iff_extractLsb' (n := 5) (k := 3) x)
    (and_eq_zero_iff_extractLsb' (n := 16) (k := 16) y)

/-! The rows of the opcode table (R103, R104, R109). -/

/-- The instructions `i u` are the row of the opcode `op`, with their operand carried as `a u` and `d u`. -/
structure Row {α : Type} (op : BitVec 8) (i : α → Instr) (a : α → BitVec 8) (d : α → BitVec 32) : Prop where
  decode_iff : ∀ x y j, decodeFields op x y = .ok j ↔ ∃ u, (x = a u ∧ y = d u) ∧ i u = j
  encode_eq : ∀ u, encode (i u) = packWord op (a u) (d u)
  match_eq : ∀ u, matchOf (i u) = packWord op 0 0
  mask_op : ∀ u, fieldOp (maskOf (i u)) = BitVec.allOnes 8
  mask_iff : ∀ u x y, x &&& fieldA (maskOf (i u)) = 0 ∧ y &&& fieldD (maskOf (i u)) = 0 ↔
    ∃ u', x = a u' ∧ y = d u'

/-- The instruction stands in a row of the opcode table. -/
def InRow (r : Instr) : Prop :=
  ∃ (α : Type) (op : BitVec 8) (i : α → Instr) (a : α → BitVec 8) (d : α → BitVec 32),
    Row op i a d ∧ ∃ u, i u = r

/-- A format answers its instruction exactly where its test holds (R101, R107). -/
theorem format_ok_iff {p : Prop} [Decidable p] {e : Illegal} {i j : Instr} :
    (if p then .ok i else .error e : Except Illegal Instr) = .ok j ↔ p ∧ i = j := by
  split <;> simp [*]

theorem Layout.inRow {α : Type} {p : BitVec 8 → BitVec 32 → Prop} {v : BitVec 8 → BitVec 32 → α}
    {a : α → BitVec 8} {d : α → BitVec 32} {mask : TraceWord} (hl : Layout p v a d mask)
    {op : BitVec 8} {i : α → Instr} (u : α)
    (hencode : ∀ u, encode (i u) = packWord op (a u) (d u))
    (hdecode : ∀ x y j, decodeFields op x y = .ok j ↔ p x y ∧ i (v x y) = j)
    (hmatch : ∀ u, matchOf (i u) = packWord op 0 0) (hmask : ∀ u, maskOf (i u) = mask) :
    InRow (i u) := by
  refine ⟨α, op, i, a, d, ⟨fun x y j => ?_, hencode, hmatch, fun u => ?_, fun u x y => ?_⟩, u, rfl⟩
  · rw [hdecode, hl.filled]
    constructor
    · rintro ⟨⟨u, rfl, rfl⟩, hj⟩
      exact ⟨u, ⟨rfl, rfl⟩, hl.operand u ▸ hj⟩
    · rintro ⟨u, ⟨rfl, rfl⟩, hj⟩
      exact ⟨⟨u, rfl, rfl⟩, (hl.operand u).symm ▸ hj⟩
  · rw [hmask, hl.covers]
  · rw [hmask, hl.masked, hl.filled]

/-- The opcode table, one case per format: the four functions of the model agree on every row. -/
theorem inRow (r : Instr) : InRow r := by
  cases r with
  | tbMswait n | tbRawstart n | tbRawwait n | evCount n | fgStep n =>
    exact layoutD.inRow n (fun _ => rfl) (fun _ _ _ => format_ok_iff) (fun _ => rfl) (fun _ => rfl)
  | adcIsupdated n =>
    exact layoutR.inRow n (fun _ => rfl) (fun _ _ _ => format_ok_iff) (fun _ => rfl) (fun _ => rfl)
  | adcCalbias c | adcReading c =>
    exact layoutC.inRow c (fun _ => rfl) (fun _ _ _ => format_ok_iff) (fun _ => rfl) (fun _ => rfl)
  | evOc l | evLp l | evLamp l =>
    exact layoutL.inRow l (fun _ => rfl) (fun _ _ _ => format_ok_iff) (fun _ => rfl) (fun _ => rfl)
  | evAdcdone s =>
    exact layoutS.inRow s (fun _ => rfl) (fun _ _ _ => format_ok_iff) (fun _ => rfl) (fun _ => rfl)
  | evWdtexp hold oc lp cnt =>
    exact layoutX.inRow (i := fun u => .evWdtexp u.1 u.2.1 u.2.2.1 u.2.2.2) (hold, oc, lp, cnt)
      (fun _ => rfl) (fun _ _ _ => format_ok_iff) (fun _ => rfl) (fun _ => rfl)
  | evPor hold oc lp cnt =>
    exact layoutX.inRow (i := fun u => .evPor u.1 u.2.1 u.2.2.1 u.2.2.2) (hold, oc, lp, cnt)
      (fun _ => rfl) (fun _ _ _ => format_ok_iff) (fun _ => rfl) (fun _ => rfl)
  | _ =>
    exact layoutN.inRow (i := fun _ => _) () (fun _ => rfl) (fun _ _ _ => format_ok_iff) (fun _ => rfl)
      (fun _ => rfl)

variable {w : TraceWord} {i j : Instr}

/-- An opcode with an instruction at some operand has one with every operand bit 0, and that instruction's
match names the opcode. -/
theorem opcode_of_decodeFields {op x : BitVec 8} {y : BitVec 32} (h : decodeFields op x y = .ok i) :
    ∃ r : Instr, fieldOp (matchOf r) = op := by
  have hzero : ∃ r, decodeFields op 0 0 = .ok r := by
    unfold decodeFields at h ⊢
    generalize op.toNat = n at h ⊢
    revert h
    split
    case h_46 => nofun -- the arm of the reserved opcodes
    all_goals exact fun _ => ⟨_, rfl⟩
  have hopcode : ∀ op : BitVec 8, ∀ r ∈ (decodeFields op 0 0).toOption, fieldOp (matchOf r) = op := by
    decide +kernel
  obtain ⟨r, hr⟩ := hzero
  exact ⟨r, hopcode op r (by rw [hr]; rfl)⟩

/-! The round trips. -/

/-- Settles O48: the row of the instruction reads what its encoder writes. -/
theorem decodeInvertsEncode : Obligations.DecodeInvertsEncode := by
  intro r
  obtain ⟨α, op, i, a, d, hrow, u, rfl⟩ := inRow r
  rw [hrow.encode_eq, decode_packWord]
  exact (hrow.decode_iff _ _ _).2 ⟨u, ⟨rfl, rfl⟩, rfl⟩

section
variable {α : Type} {op : BitVec 8} {i : α → Instr} {a : α → BitVec 8} {d : α → BitVec 32}

theorem Row.fieldOp_matchOf (hrow : Row op i a d) (u : α) : fieldOp (matchOf (i u)) = op := by
  rw [hrow.match_eq, fieldOp_packWord]

/-- A word with a row's opcode that decodes carries the operand of an instruction of the row. -/
theorem Row.encode_of_decode (hrow : Row op i a d) (hop : fieldOp w = op) (h : decode w = .ok j) :
    encode j = w := by
  subst hop
  obtain ⟨u, ⟨hx, hy⟩, rfl⟩ := (hrow.decode_iff _ _ _).1 h
  rw [hrow.encode_eq, ← hx, ← hy, packWord_fields]

end

/-- Settles O49: the word's opcode has a row, and the row's encoder writes the fields it reads. -/
theorem encodeInvertsDecode : Obligations.EncodeInvertsDecode := by
  intro w j h
  obtain ⟨r, hr⟩ := opcode_of_decodeFields h
  obtain ⟨α, op, i, a, d, hrow, u, rfl⟩ := inRow r
  exact hrow.encode_of_decode (hr.symm.trans (hrow.fieldOp_matchOf u)) h

/-! Match and mask (R109). -/

theorem fieldOp_encode (r : Instr) : fieldOp (encode r) = fieldOp (matchOf r) := by
  obtain ⟨α, op, i, a, d, hrow, u, rfl⟩ := inRow r
  rw [hrow.encode_eq, fieldOp_packWord, hrow.fieldOp_matchOf]

theorem word_eq_iff {v w : TraceWord} :
    v = w ↔ fieldOp v = fieldOp w ∧ fieldA v = fieldA w ∧ fieldD v = fieldD w := by
  refine ⟨by rintro rfl; exact ⟨rfl, rfl, rfl⟩, fun ⟨hop, hx, hy⟩ => ?_⟩
  rw [← packWord_fields v, hop, hx, hy, packWord_fields]

/-- A word has the masked bits of a row's match exactly when it has the row's opcode and an operand of the
row. -/
theorem Row.masked_eq_matchOf_iff {α : Type} {op : BitVec 8} {i : α → Instr} {a : α → BitVec 8}
    {d : α → BitVec 32} (hrow : Row op i a d) (u : α) :
    w &&& maskOf (i u) = matchOf (i u) ↔ fieldOp w = op ∧ ∃ u', fieldA w = a u' ∧ fieldD w = d u' := by
  have hop : fieldOp (w &&& maskOf (i u)) = fieldOp w := by
    rw [fieldOp, BitVec.extractLsb'_and]
    exact (congrArg (fieldOp w &&& ·) (hrow.mask_op u)).trans BitVec.and_allOnes
  have hx : fieldA (w &&& maskOf (i u)) = fieldA w &&& fieldA (maskOf (i u)) := BitVec.extractLsb'_and
  have hy : fieldD (w &&& maskOf (i u)) = fieldD w &&& fieldD (maskOf (i u)) := BitVec.extractLsb'_and
  rw [word_eq_iff, hop, hx, hy, hrow.match_eq, fieldOp_packWord, fieldA_packWord, fieldD_packWord,
    hrow.mask_iff]

/-- The words of an instruction's row are the ones that decode to an instruction of that row. -/
theorem masked_eq_matchOf_iff_decode :
    w &&& maskOf i = matchOf i ↔ ∃ j, decode w = .ok j ∧ matchOf j = matchOf i := by
  obtain ⟨α, op, i, a, d, hrow, u, rfl⟩ := inRow i
  rw [hrow.masked_eq_matchOf_iff]
  constructor
  · rintro ⟨rfl, u', hfields⟩
    exact ⟨i u', (hrow.decode_iff _ _ _).2 ⟨u', hfields, rfl⟩, by rw [hrow.match_eq, hrow.match_eq]⟩
  · rintro ⟨j, hj, hmatch⟩
    have hop : fieldOp w = op := by
      rw [← encodeInvertsDecode w j hj, fieldOp_encode, hmatch, hrow.fieldOp_matchOf]
    subst hop
    obtain ⟨u', hfields, -⟩ := (hrow.decode_iff _ _ _).1 hj
    exact ⟨rfl, u', hfields⟩

theorem decode_error_iff : (∃ e, decode w = .error e) ↔ ∀ j, decode w ≠ .ok j := by
  cases decode w <;> simp

/-- Settles O50: an illegal word has no instruction to match, and a legal one matches its own row. -/
theorem decodingFollowsMatchAndMask : Obligations.DecodingFollowsMatchAndMask := by
  refine ⟨fun w i => masked_eq_matchOf_iff_decode, fun w => ?_⟩
  rw [decode_error_iff]
  constructor
  · intro hillegal i hi
    obtain ⟨j, hj, -⟩ := masked_eq_matchOf_iff_decode.1 hi
    exact hillegal j hj
  · intro hnone j hj
    exact hnone j (masked_eq_matchOf_iff_decode.2 ⟨j, hj, rfl⟩)

/-! Words written out (95_test_vectors, section 2.1). -/

theorem decode_of_encode (h : encode i = w) : decode w = .ok i := h ▸ decodeInvertsEncode i

/-- Settles O51: eight of the words are the encodings of their instructions; the other two have a reserved
opcode and a bit that format N reserves. -/
theorem writtenOutWordsDecode : Obligations.WrittenOutWordsDecode := by
  refine ⟨decode_of_encode ?_, decode_of_encode ?_, decode_of_encode ?_, decode_of_encode ?_,
    decode_of_encode ?_, decode_of_encode ?_, decode_of_encode ?_, decode_of_encode ?_, ?_, ?_⟩ <;>
    decide

end Sys2Proof

/-! PROOF. When an operation word is refused (spec/30_encoding.md R106, R107, R216), and the three operation
words R108 composes: `TB.RAWWAIT` as a start with repeated polls, and the two sequences that halt. -/

namespace Sys2Proof.Machine

variable {s t : State} {p q : Prop}

/-! Refusal of an operation. -/

/-- The answer is no fault, and a refusal exactly when `p` holds. -/
structure RefusedExactly (r : StepResult) (p : Prop) : Prop where
  no_fault : ∀ f, r ≠ .fault f
  refused_iff : (∃ q, r = .refused q) ↔ p

theorem RefusedExactly.next (t : State) : RefusedExactly (.next t) False := ⟨nofun, by simp⟩

theorem RefusedExactly.refused (r : Refusal) (hp : p) : RefusedExactly (.refused r) p :=
  ⟨nofun, by simp [hp]⟩

theorem RefusedExactly.congr {r : StepResult} (h : RefusedExactly r p) (hpq : p ↔ q) :
    RefusedExactly r q := ⟨h.no_fault, h.refused_iff.trans hpq⟩

theorem RefusedExactly.withDuration (d : BitVec 32) (s : State) (f : State → State) :
    RefusedExactly (withDuration d s f) (¬d.toNat < s.cfg.msWrap) := by
  unfold Machine.withDuration
  split
  next hd => exact (next _).congr (by simp [hd])
  next hd => exact refused _ hd

theorem RefusedExactly.sysSleep (s : State) : RefusedExactly (sysSleep s) (s.gie = false) := by
  unfold Machine.sysSleep
  split
  next hgie => split <;> exact (next _).congr (by simp [hgie])
  next hgie => exact refused _ (by simpa using hgie)

theorem RefusedExactly.sysHalt (s : State) : RefusedExactly (sysHalt s) False := by
  unfold Machine.sysHalt
  split <;> exact next _

/-- An operation is refused on a foreground that is not free, or by its effect. -/
theorem RefusedExactly.operation {f : State → StepResult} (h : RefusedExactly (f s.kick) p) :
    RefusedExactly (operation s f) (¬ForegroundFree s ∨ p) := by
  by_cases hfree : ForegroundFree s
  · rw [operation_of_free hfree]
    exact h.congr (by simp [hfree])
  · obtain ⟨r, hr⟩ := operation_of_not_free hfree f
    rw [hr]
    exact refused r (.inl hfree)

theorem RefusedExactly.simpleOperation (s : State) (f : State → State) :
    RefusedExactly (simpleOperation s f) (¬ForegroundFree s ∨ False) :=
  operation (f := fun t => .next (f t)) (next _)

theorem RefusedExactly.durationOperation (d : BitVec 32) (s : State) (f : State → State) :
    RefusedExactly (Machine.operation s fun t => Machine.withDuration d t f)
      (¬ForegroundFree s ∨ ¬d.toNat < s.cfg.msWrap) :=
  operation (f := fun t => Machine.withDuration d t f) (withDuration d s.kick f)

theorem exec_refusedExactly {i : Instr} (hi : isOperation i = true) (s : State) :
    RefusedExactly (exec i s)
      (¬ForegroundFree s ∨ i.wellFormed s.cfg = false ∨ (i = .sysSleep ∧ s.gie = false)) := by
  cases i with
  | tbMswait d | tbRawstart d | tbRawwait d =>
    exact (RefusedExactly.durationOperation d s _).congr (by simp [Instr.wellFormed])
  | sysSleep => exact (RefusedExactly.sysSleep s.kick).operation.congr (by simp [Instr.wellFormed])
  | sysHalt => exact (RefusedExactly.sysHalt s.kick).operation.congr (by simp [Instr.wellFormed])
  | evCount _ | evAdcdone _ | evOc _ | evLp _ | evLamp _ | evWdtexp _ _ _ _ | evPor _ _ _ _
  | irqOc | irqLp | irqAdc | irqTov | fgStep _ => cases hi
  | _ => exact (RefusedExactly.simpleOperation s _).congr (by simp [Instr.wellFormed])

/-- Settles O43: beside the foreground's own condition, a duration and a sleep are the only grounds. -/
theorem operationsAreRefusedExactlyWhenNotEnabled :
    Obligations.OperationsAreRefusedExactlyWhenNotEnabled := by
  intro i s hi
  obtain ⟨hfault, hrefused⟩ := exec_refusedExactly hi s
  exact ⟨hfault, hrefused⟩

/-! The raw wait (R141). -/

theorem serviceOverflow_eq (s : State) : s.serviceOverflow = overflowServiced s := by
  unfold State.serviceOverflow
  split
  next hflag => simp [overflowServiced, State.countOverflow, wrapW, hflag]
  next hflag => rw [overflowServiced, if_neg hflag, ← Bool.eq_false_iff.2 hflag]

/-- A poll of the raw wait is `TB.RAWENDED` with no wait in progress, but for `RES` and the wait it ends. -/
theorem pollRaw_eq_tbRawended (hw : s.wKind = 5) :
    pollRaw s = { tbRawended { s with wKind := 0 } with
      res := s.res, wKind := if (tbRawended { s with wKind := 0 }).res = 1 then 0 else 5 } := by
  have hres : (tbRawended { s with wKind := 0 }).res = boolRes (rawElapsed (overflowServiced s)) := by
    rw [tbRawended, serviceOverflow_eq]
    rfl
  rw [hres, pollRaw, tbRawended, serviceOverflow_eq, serviceOverflow_eq]
  cases rawElapsed (overflowServiced s) with
  | true => rfl
  | false => exact congrArg (fun k => { overflowServiced s with wKind := k }) hw

/-- Settles O46: the issue step of the wait is the start, and each poll is `TB.RAWENDED`. -/
theorem rawWaitIsRawStartAndRepeatedRawEnded : Obligations.RawWaitIsRawStartAndRepeatedRawEnded := by
  constructor
  · intro d s t h
    have hop : operation s (fun u => withDuration d u (tbRawstart d)) = .next t := h
    obtain ⟨hfree, h⟩ := operation_next hop
    obtain ⟨hd, rfl⟩ := withDuration_next h
    have hissue : exec (.tbRawwait d) s = withDuration d s.kick (tbRawwaitIssue d) :=
      operation_of_free hfree fun u => withDuration d u (tbRawwaitIssue d)
    rw [hissue, withDuration, if_pos hd]
    rfl
  · intro s ⟨hhalted, hsleeping⟩ hw hstrap
    have hpoll : exec (.fgStep 1) s = .next (pollRaw s.kick) := by
      have hkick : s.kick.wKind = 5 := hw
      have hwait : s.wKind ≠ 0 := by rw [hw]; decide
      calc exec (.fgStep 1) s = foregroundStep s := execFgStep_one s
        _ = waitPoll s.kick := foregroundStep_poll hhalted hsleeping hwait
        _ = .next (pollRaw s.kick) := by rw [waitPoll, hkick]; rfl
    have hended : exec .tbRawended { s with wKind := 0 } =
        .next (tbRawended (State.kick { s with wKind := 0 })) :=
      simpleOperation_of_free (s := { s with wKind := 0 }) ⟨hstrap, hhalted, hsleeping, rfl⟩ _
    exact ⟨_, _, hpoll, hended, pollRaw_eq_tbRawended (s := s.kick) hw⟩

/-! The halting sequences (R108, R217). -/

/-- `SYS.HALT` on a free foreground: the recorded condition, or FC10 (R217). -/
theorem exec_sysHalt_of_free (h : ForegroundFree s) : exec .sysHalt s = .next { s with
    ilkFc := if s.ilkFc = 0 then 10 else s.ilkFc, ilkState := 5, ilkPhase := 2, ilkHalted := true,
    gie := false, wdtKick := false, lampPollReq := false } := by
  have hawake : { s with sleeping := false } = s := by
    obtain ⟨-, -, hsleeping, -⟩ := h
    rw [← hsleeping]
  have hhalt : exec .sysHalt s = sysHalt s.kick := operation_of_free h _
  rw [hhalt, sysHalt, State.kick_ilkFc]
  conv_rhs => rw [← hawake]
  split <;> rfl

/-- An operation that leaves the foreground free hands over to the rest of its sequence (R108). -/
theorem execAll_cons_of_next {i : Instr} {rest : List Instr} (h : exec i s = .next t) :
    execAll (i :: rest) s = execAll rest t := by
  simp only [execAll, h]

/-- `PWR.OFF` and `SYS.HALT` under a test master. -/
theorem execAll_ilkCut (h : ForegroundFree s) : execAll (expandPseudo .ilkCut) s = .next { s with
    pwrEn := false, ilkFc := if s.ilkFc = 0 then 10 else s.ilkFc, ilkState := 5, ilkPhase := 2,
    ilkHalted := true, gie := false, wdtKick := false, lampPollReq := false } := by
  have hoff : exec .pwrOff s = .next (pwrOff s.kick) := simpleOperation_of_free h _
  have hfree : ForegroundFree (pwrOff s.kick) := h
  calc execAll (expandPseudo .ilkCut) s = execAll [.sysHalt] (pwrOff s.kick) := execAll_cons_of_next hoff
    _ = _ := execAll_cons_of_next (exec_sysHalt_of_free hfree)

/-- Settles O47: the shutdown is the cut after the lamp-reset step. -/
theorem shutdownAndCutSequencesHaltWithPowerOff :
    Obligations.ShutdownAndCutSequencesHaltWithPowerOff := by
  intro s h
  refine ⟨?_, execAll_ilkCut h⟩
  have hassert : exec .lrstAssert s = .next (lrstAssert s.kick) := simpleOperation_of_free h _
  have hfree : ForegroundFree (lrstAssert s.kick) := h
  calc execAll (expandPseudo .ilkShutdown) s
      = execAll (expandPseudo .ilkCut) (lrstAssert s.kick) := execAll_cons_of_next hassert
    _ = _ := execAll_ilkCut hfree

end Sys2Proof.Machine

/-! PROOF. The step on each kind of trace (spec/30_encoding.md R106, R107), and the execution of a trace as
the run of its steps (R13). -/

namespace Sys2Proof.Machine

variable {s t : State} {w : TraceWord} {rest : List TraceWord}

/-! The step. -/

theorem step_of_invalid (h : s.cfg.valid = false) : step s = .refused .badConfiguration := by
  simp [step, h]

theorem step_of_nil (hv : s.cfg.valid = true) (ht : s.trace = []) : step s = .next s.quiet := by
  simp [step, State.fetch, hv, ht]

theorem step_of_decode_ok {i : Instr} (hv : s.cfg.valid = true) (ht : s.trace = w :: rest)
    (hd : decode w = .ok i) : step s = exec i { s with trace := rest } := by
  simp [step, State.fetch, hv, ht, hd]

theorem step_of_decode_error {e : Illegal} (hv : s.cfg.valid = true) (ht : s.trace = w :: rest)
    (hd : decode w = .error e) : step s = illegalWord { s with trace := rest } := by
  simp [step, State.fetch, hv, ht, hd]

/-- Settles O52. -/
theorem stepExecutesTheNextWord : Obligations.StepExecutesTheNextWord :=
  fun _ _ _ _ hv ht hd => step_of_decode_ok hv ht hd

theorem illegalWord_of_stop (h : s.cfg.onIllegal = .stop) : illegalWord s = .refused .illegalWord := by
  simp [illegalWord, h]

theorem illegalWord_of_free (h : s.cfg.onIllegal = .hardware) (hfree : ForegroundFree s) :
    illegalWord s = .next { s.quiet with opErr := true } := by
  simp only [illegalWord, h, (operationRefusal_eq_none s).2 hfree]

theorem illegalWord_of_not_free (h : s.cfg.onIllegal = .hardware) (hfree : ¬ForegroundFree s) :
    ∃ r, illegalWord s = .refused r := by
  cases hr : operationRefusal s with
  | none => exact absurd ((operationRefusal_eq_none s).1 hr) hfree
  | some r => exact ⟨r, by simp only [illegalWord, h, hr]⟩

/-- Settles O53: the configuration decides before the word, and an illegal word is handled by
`illegalWord`. -/
theorem stepRefusesIllegalWordsAndHoldsWithoutAWord :
    Obligations.StepRefusesIllegalWordsAndHoldsWithoutAWord := by
  refine ⟨fun s w rest e hv ht hd => ?_, fun s => step_of_invalid, fun s => step_of_nil⟩
  rw [step_of_decode_error hv ht hd]
  exact ⟨fun h => illegalWord_of_stop h, fun h hfree => illegalWord_of_free h hfree,
    fun h hfree => illegalWord_of_not_free h hfree⟩

/-- A step takes the next word off the trace and leaves the rest (R106). -/
theorem step_trace (h : step s = .next t) : t.trace = s.trace.tail := by
  obtain ⟨-, ⟨ht, rfl⟩ | ⟨w, rest, ht, ⟨i, -, hexec⟩ | ⟨e, -, hillegal⟩⟩⟩ := step_next h
  · simp [ht]
  · obtain ⟨-, htrace, -⟩ := inputsAreWrittenByTheirEventsOnly _ _ _ hexec
    simpa [ht] using htrace
  · obtain ⟨-, -, rfl⟩ := illegalWord_next hillegal
    simp [ht]

/-- `k` steps take `k` words off the trace. -/
theorem run_trace {k : Nat} : ∀ {s t : State}, Host.Core.run Sys2Proof.core k s = .next t →
    t.trace = s.trace.drop k := by
  induction k with
  | zero =>
    intro s t h
    cases h
    rfl
  | succ k ih =>
    intro s t h
    cases hstep : step s with
    | next u =>
      rw [run_of_next (M := Sys2Proof.core) hstep] at h
      rw [ih h, step_trace hstep, List.drop_tail]
    | fault f => rw [run_of_fault (M := Sys2Proof.core) hstep] at h; cases h
    | refused r => rw [run_of_refused (M := Sys2Proof.core) hstep] at h; cases h

/-! The execution of a trace. -/

/-- The answer of a trace that stops at place `k` on word `w` because the step answers `x`. -/
def stoppedAt (k : Nat) (w : TraceWord) : StepResult → TraceOutcome
  | .next t => .completed t
  | .fault f => .faulted k w f
  | .refused r => .refused k w r

/-- The step's answer stops the machine. -/
def Stops (x : StepResult) : Prop := ∀ t, x ≠ .next t

theorem stops_fault (f : Fault) : Stops (.fault f) := by simp [Stops]

theorem stops_refused (r : Refusal) : Stops (.refused r) := by simp [Stops]

theorem exists_next_of_not_stops {x : StepResult} (h : ¬Stops x) : ∃ t, x = .next t := by
  simpa [Stops] using h

theorem executeFrom_of_stops {x : StepResult} (h : step { s with trace := w :: rest } = x) (hx : Stops x)
    (k : Nat) : executeFrom k (w :: rest) s = stoppedAt k w x := by
  cases x with
  | next t => exact absurd rfl (hx t)
  | fault f => exact executeFrom_of_fault h k
  | refused r => exact executeFrom_of_refused h k

theorem stoppedAt_inj {x y : StepResult} (hx : Stops x) (hy : Stops y) {j k : Nat} {v w : TraceWord} :
    stoppedAt j v x = stoppedAt k w y ↔ j = k ∧ v = w ∧ x = y := by
  cases x with
  | next t => exact absurd rfl (hx t)
  | fault f => cases y <;> simp_all [stoppedAt, Stops]
  | refused r => cases y <;> simp_all [stoppedAt, Stops]

theorem stoppedAt_ne_completed {x : StepResult} (hx : Stops x) {k : Nat} :
    stoppedAt k w x ≠ .completed t := by
  cases x with
  | next u => exact absurd rfl (hx u)
  | fault f => nofun
  | refused r => nofun

theorem run_succ_of_stops {x : StepResult} (h : step s = x) (hx : Stops x) (k : Nat) :
    Host.Core.run Sys2Proof.core (k + 1) s = x := by
  cases x with
  | next t => exact absurd rfl (hx t)
  | fault f => exact run_of_fault (M := Sys2Proof.core) h k
  | refused r => exact run_of_refused (M := Sys2Proof.core) h k

theorem State.setTrace_of_eq (h : t.trace = rest) : { t with trace := rest } = t := by
  rw [← h]

/-- A step of the trace `w :: rest` has the trace `rest` to run. -/
theorem run_succ_of_step (h : step { s with trace := w :: rest } = .next t) (k : Nat) :
    Host.Core.run Sys2Proof.core (k + 1) { s with trace := w :: rest } =
      Host.Core.run Sys2Proof.core k { t with trace := rest } := by
  have hrest : t.trace = rest := step_trace h
  rw [State.setTrace_of_eq hrest]
  exact run_of_next (M := Sys2Proof.core) h k

theorem executeFrom_completed_iff (ws : List TraceWord) : ∀ (j : Nat) (s : State),
    executeFrom j ws s = .completed t ↔
      Host.Core.run Sys2Proof.core ws.length { s with trace := ws } = .next t := by
  induction ws with
  | nil =>
    intro j s
    rw [executeFrom_nil]
    exact ⟨fun h => by injection h with h; exact h ▸ rfl, fun h => by injection h with h; exact h ▸ rfl⟩
  | cons v vs ih =>
    intro j s
    rw [List.length_cons]
    by_cases hstops : Stops (step { s with trace := v :: vs })
    · rw [executeFrom_of_stops rfl hstops, run_succ_of_stops rfl hstops]
      exact ⟨fun h => absurd h (stoppedAt_ne_completed hstops), fun h => absurd h (hstops t)⟩
    · obtain ⟨u, hu⟩ := exists_next_of_not_stops hstops
      rw [executeFrom_of_next hu, run_succ_of_step hu, ih]

/-- The steps `s` takes on `ws` reach the word `w` at place `n`, and its step answers `x`. -/
def ReachesStop (ws : List TraceWord) (s : State) (n : Nat) (w : TraceWord) (x : StepResult) : Prop :=
  ∃ (t : State) (rest : List TraceWord), ws.drop n = w :: rest ∧ t.trace = w :: rest ∧
    Host.Core.run Sys2Proof.core n { s with trace := ws } = .next t ∧ step t = x

theorem reachesStop_nil {n : Nat} {x : StepResult} : ¬ReachesStop [] s n w x := by
  rintro ⟨_, _, hdrop, -⟩
  simp at hdrop

theorem reachesStop_zero {v : TraceWord} {vs : List TraceWord} {x : StepResult} :
    ReachesStop (v :: vs) s 0 w x ↔ v = w ∧ step { s with trace := v :: vs } = x := by
  constructor
  · rintro ⟨t, rest, hdrop, -, hrun, hstep⟩
    cases hrun
    injection hdrop with hv
    exact ⟨hv, hstep⟩
  · rintro ⟨rfl, hstep⟩
    exact ⟨_, vs, rfl, rfl, rfl, hstep⟩

theorem reachesStop_succ_of_next {n : Nat} {v : TraceWord} {vs : List TraceWord} {x : StepResult}
    (h : step { s with trace := v :: vs } = .next t) :
    ReachesStop (v :: vs) s (n + 1) w x ↔ ReachesStop vs t n w x := by
  simp only [ReachesStop, List.drop_succ_cons, run_succ_of_step h]

theorem reachesStop_succ_of_stops {n : Nat} {v : TraceWord} {vs : List TraceWord} {x y : StepResult}
    (h : step { s with trace := v :: vs } = y) (hy : Stops y) :
    ¬ReachesStop (v :: vs) s (n + 1) w x := by
  rintro ⟨t, rest, -, -, hrun, -⟩
  rw [run_succ_of_stops h hy] at hrun
  exact hy t hrun

/-- Executing a trace stops where its run stops, with the same answer; places count from `j`. -/
theorem executeFrom_stoppedAt_iff {x : StepResult} (hx : Stops x) (ws : List TraceWord) :
    ∀ (j k : Nat) (s : State),
      executeFrom j ws s = stoppedAt k w x ↔ ∃ n, k = j + n ∧ ReachesStop ws s n w x := by
  induction ws with
  | nil =>
    intro j k s
    rw [executeFrom_nil]
    exact ⟨fun h => absurd h.symm (stoppedAt_ne_completed hx), fun ⟨n, _, h⟩ => absurd h reachesStop_nil⟩
  | cons v vs ih =>
    intro j k s
    by_cases hstops : Stops (step { s with trace := v :: vs })
    · rw [executeFrom_of_stops rfl hstops, stoppedAt_inj hstops hx]
      constructor
      · rintro ⟨rfl, hv⟩
        exact ⟨0, rfl, reachesStop_zero.2 hv⟩
      · rintro ⟨n | n, rfl, h⟩
        · exact ⟨rfl, reachesStop_zero.1 h⟩
        · exact absurd h (reachesStop_succ_of_stops rfl hstops)
    · obtain ⟨t, ht⟩ := exists_next_of_not_stops hstops
      rw [executeFrom_of_next ht, ih]
      constructor
      · rintro ⟨n, rfl, h⟩
        exact ⟨n + 1, by omega, (reachesStop_succ_of_next ht).2 h⟩
      · rintro ⟨n | n, rfl, h⟩
        · obtain ⟨-, rfl⟩ := reachesStop_zero.1 h
          exact absurd ht (hx t)
        · exact ⟨n, by omega, (reachesStop_succ_of_next ht).1 h⟩

theorem executeTrace_stoppedAt_iff {x : StepResult} (hx : Stops x) (ws : List TraceWord) (s : State)
    (k : Nat) : executeTrace ws s = stoppedAt k w x ↔ ReachesStop ws s k w x := by
  rw [executeTrace, executeFrom_stoppedAt_iff hx]
  simp

/-- A step refused before the end of the trace is refused on the trace's word there. -/
theorem exists_reachesStop {ws : List TraceWord} {k : Nat} {x : StepResult} (hk : k < ws.length)
    (hrun : Host.Core.run Sys2Proof.core k { s with trace := ws } = .next t) (hstep : step t = x) :
    ∃ w, ReachesStop ws s k w x := by
  have hdrop : ws.drop k = ws[k] :: ws.drop (k + 1) := List.drop_eq_getElem_cons hk
  exact ⟨ws[k], t, _, hdrop, (run_trace hrun).trans hdrop, hrun, hstep⟩

theorem ReachesStop.lt_length {ws : List TraceWord} {k : Nat} {x : StepResult}
    (h : ReachesStop ws s k w x) : k < ws.length := by
  obtain ⟨t, rest, hdrop, -⟩ := h
  by_contra hk
  rw [List.drop_eq_nil_of_le (by omega)] at hdrop
  cases hdrop

/-- Settles O60: executing a trace completes, or stops on a word, as its run does. -/
theorem executingATraceNamesTheWordItStopsAt : Obligations.ExecutingATraceNamesTheWordItStopsAt := by
  intro ws s
  have hrefused (k : Nat) (w : TraceWord) (r : Refusal) :
      executeTrace ws s = .refused k w r ↔ ReachesStop ws s k w (.refused r) :=
    executeTrace_stoppedAt_iff (stops_refused r) ws s k
  have hfaulted (k : Nat) (w : TraceWord) (f : Fault) :
      executeTrace ws s = .faulted k w f ↔ ReachesStop ws s k w (.fault f) :=
    executeTrace_stoppedAt_iff (stops_fault f) ws s k
  refine ⟨fun t => executeFrom_completed_iff ws 0 s, hrefused, hfaulted, ?_⟩
  rw [← Bool.not_eq_false, traceWellFormed_eq_false]
  constructor
  · intro hformed k t r hk hrun hstep
    obtain ⟨w, hstop⟩ := exists_reachesStop hk hrun hstep
    exact hformed ⟨k, w, r, (hrefused k w r).2 hstop⟩
  · rintro hsteps ⟨k, w, r, hr⟩
    have hstop := (hrefused k w r).1 hr
    have hk := hstop.lt_length
    obtain ⟨t, rest, -, -, hrun, hstep⟩ := hstop
    exact hsteps k t r hk hrun hstep

end Sys2Proof.Machine

/-! PROOF. How the effects of the machine are run: an operation on a free foreground and its refusal
(spec/30_encoding.md R106, R107), the poll of the wait in progress (spec/40_timebase.md R142), and taking
an interrupt (spec/60_exceptions.md R262, R265, R266). Each rule is stated once for every effect. -/

namespace Sys2Proof.Machine

variable {s t : State}

/-! Operations. -/

theorem exec_refused_of_not_free {i : Instr} (hi : isOperation i = true) (h : ¬ForegroundFree s) :
    ∃ r, exec i s = .refused r := (exec_refusedExactly hi s).refused_iff.2 (.inl h)

/-- An operation that always completes has its effect, in a step that kicks the watchdog. -/
theorem operationEffect_of_simple {i : Instr} {f g : State → State}
    (hexec : ∀ s, exec i s = simpleOperation s f) (heffect : ∀ s, f s.kick = g s) :
    OperationEffect i g := by
  intro s
  rw [hexec s, ← heffect s]
  exact ⟨fun h => simpleOperation_of_free h f, fun h => simpleOperation_of_not_free h f⟩

theorem durationOperation_of_free {d : BitVec 32} {f : State → State} (h : ForegroundFree s)
    (hd : d.toNat < s.cfg.msWrap) (heffect : f s.kick = t) :
    operation s (fun u => withDuration d u f) = .next t := by
  rw [operation_of_free h, ← heffect]
  exact if_pos hd

theorem durationOperation_out_of_domain {d : BitVec 32} {f : State → State} (h : ForegroundFree s)
    (hd : s.cfg.msWrap ≤ d.toNat) :
    operation s (fun u => withDuration d u f) = .refused .durationOutOfDomain := by
  rw [operation_of_free h]
  exact if_neg (Nat.not_lt.2 hd)

/-! The wait poll. -/

/-- The poll of each wait (R142). -/
def WaitKind.poll : WaitKind → State → State
  | .sync => pollSync
  | .msNowrap => pollMsNowrap
  | .msWrapwait => pollMsWrapwait
  | .tick => pollTick
  | .raw => pollRaw

theorem waitOfCode_code (k : WaitKind) : waitOfCode k.code = some k := by cases k <;> rfl

theorem waitPoll_of_code {k : WaitKind} (hw : s.wKind = k.code) : waitPoll s = .next (k.poll s) := by
  unfold waitPoll
  rw [hw, waitOfCode_code]
  cases k <;> rfl

/-- With a wait in progress `FG.STEP 1` is its poll, in a step that kicks the watchdog (R221, R230). -/
theorem exec_fgStep_of_wait (k : WaitKind) (ha : Awake s) (hw : s.wKind = k.code)
    (hpoll : k.poll s.kick = t) : exec (.fgStep 1) s = .next t := by
  obtain ⟨hhalted, hsleeping⟩ := ha
  have hwait : s.wKind ≠ 0 := by rw [hw]; cases k <;> decide
  calc exec (.fgStep 1) s = foregroundStep s := execFgStep_one s
    _ = waitPoll s.kick := foregroundStep_poll hhalted hsleeping hwait
    _ = .next (k.poll s.kick) := waitPoll_of_code hw
    _ = .next t := congrArg _ hpoll

/-! Interrupts. -/

theorem pendingEnabled_overCurrent_iff (s : State) : pendingEnabled .overCurrent s = true ↔ OcPending s :=
  Bool.and_eq_true_iff

theorem pendingEnabled_lowPower_iff (s : State) : pendingEnabled .lowPower s = true ↔ LpPending s :=
  Bool.and_eq_true_iff

theorem pendingEnabled_conversion_iff (s : State) : pendingEnabled .conversion s = true ↔ AdcPending s :=
  Bool.and_eq_true_iff

theorem pendingEnabled_overflow_iff (s : State) : pendingEnabled .overflow s = true ↔ TovPending s :=
  Bool.and_eq_true_iff

/-- An interrupt is takeable when its source is pending and enabled and no source of higher priority is
(R265, R266). -/
theorem takeable_iff (x : IrqSource) (s : State) : takeable x s = true ↔
    Interruptible s ∧ pendingEnabled x s = true ∧ ∀ y ∈ higherThan x, ¬pendingEnabled y s = true := by
  simp [takeable, and_assoc]

theorem takeInterrupt_of_takeable {x : IrqSource} {body : State → StepResult}
    (h : takeable x s = true) : takeInterrupt x s body = body { s.quiet with sleeping := false } :=
  if_pos h

theorem takeInterrupt_of_not_takeable {x : IrqSource} {body : State → StepResult}
    (h : ¬takeable x s = true) : takeInterrupt x s body = .refused .interruptNotTakeable := if_neg h

end Sys2Proof.Machine

/-! PROOF. The counter and the clock of the Monotonic Time Base (spec/40_timebase.md R130, R134, R143): a
count as iterated single counts, the combined count over a count and over a serviced overflow, and the
millisecond clock. -/

namespace Sys2Proof.Machine

variable {s t : State}

/-! The counter (R130). -/

theorem wrapsWithin_of_lt {cnt : BitVec 16} {n : Nat} (h : cnt.toNat + n < 65536) :
    wrapsWithin cnt n = false := decide_eq_false (Nat.not_le.2 h)

theorem wrapsWithin_of_le {cnt : BitVec 16} {n : Nat} (h : 65536 ≤ cnt.toNat + n) :
    wrapsWithin cnt n = true := decide_eq_true h

theorem toNat_countedCnt (cnt : BitVec 16) (n : Nat) :
    (countedCnt cnt n).toNat = (cnt.toNat + n) % 65536 := by
  simp [countedCnt]

theorem countedCnt_countedCnt (cnt : BitVec 16) (m n : Nat) :
    countedCnt (countedCnt cnt m) n = countedCnt cnt (m + n) := by
  apply BitVec.eq_of_toNat_eq
  simp only [toNat_countedCnt]
  omega

/-- The counter passes 0xFFFF within `m + n` counts when it does so within the first `m` or within the
`n` after them. -/
theorem wrapsWithin_add (cnt : BitVec 16) (m n : Nat) :
    wrapsWithin cnt (m + n) = (wrapsWithin cnt m || wrapsWithin (countedCnt cnt m) n) := by
  have hcnt := cnt.isLt
  rw [Bool.eq_iff_iff]
  simp only [wrapsWithin, toNat_countedCnt, Bool.or_eq_true, decide_eq_true_eq]
  omega

theorem countBy_zero (s : State) : s.countBy 0 = s := by
  simp [State.countBy, countedCnt, wrapsWithin_of_lt (n := 0) s.tbCnt.isLt]

theorem countBy_countBy (s : State) (m n : Nat) : (s.countBy m).countBy n = s.countBy (m + n) := by
  simp only [State.countBy, countedCnt_countedCnt, wrapsWithin_add s.tbCnt m n, Bool.or_assoc]

/-- The single count of R130's pseudocode is the closed form at one count. -/
theorem countOnce_eq_countBy (s : State) : countOnce s = s.countBy 1 := by
  unfold countOnce
  split
  next htop => simp [State.countBy, countedCnt, wrapsWithin, htop]
  next htop =>
    have hbelow : s.tbCnt.toNat + 1 < 65536 := by bv_omega
    have hcnt : countedCnt s.tbCnt 1 = s.tbCnt + 1 := by
      apply BitVec.eq_of_toNat_eq
      rw [toNat_countedCnt]
      bv_omega
    simp [State.countBy, hcnt, wrapsWithin_of_lt hbelow]

theorem countOnce_iterate (n : Nat) : ∀ s : State, countOnce^[n] s = s.countBy n := by
  induction n with
  | zero => exact fun s => (countBy_zero s).symm
  | succ n ih =>
    intro s
    rw [Function.iterate_succ_apply, ih, countOnce_eq_countBy, countBy_countBy, Nat.add_comm]

theorem toNat_ne_zero {w : Nat} {v : BitVec w} (hv : v ≠ 0) : v.toNat ≠ 0 :=
  BitVec.toNat_zero ▸ BitVec.toNat_ne_iff_ne.2 hv

/-- Settles O6: the closed form of `EV.COUNT` is the iteration of the single count. -/
theorem countingIsRepeatedSingleCounts : Obligations.CountingIsRepeatedSingleCounts := by
  refine ⟨fun n s hn => ?_, fun s => rfl⟩
  calc exec (.evCount n) s = execEvCount n s := rfl
    _ = .next (s.quiet.countBy n.toNat) := if_neg (toNat_ne_zero hn)
    _ = _ := by rw [← countOnce_iterate]; rfl

/-! The combined count (R134, R143). -/

/-- A pending overflow below the boundary is counted (R134). -/
theorem correctedOvf_of_pending (hflag : s.tovFlag = true) (hbound : s.tbCnt.toNat < s.cfg.tbCorrBound) :
    correctedOvf s = wrapW s.cfg.ovfW (s.tbOvf.toNat + 1) := if_pos ⟨hflag, hbound⟩

theorem correctedOvf_of_clear (hflag : s.tovFlag = false) : correctedOvf s = s.tbOvf.toNat := by
  simp [correctedOvf, hflag]

theorem nowValue_mono (hcfg : s.cfg = t.cfg) (h : combinedCount s ≤ combinedCount t) :
    nowValue s ≤ nowValue t := by
  rw [nowValue, nowValue, hcfg]
  exact Config.scaled_mono _ h

/-- Below the wrap of the counter, `n` counts add `n` and leave the flag. -/
theorem combinedCount_countBy_of_no_wrap {n : Nat} (hn : s.tbCnt.toNat + n < 65536)
    (hs : s.tovFlag = true → s.tbCnt.toNat < s.cfg.tbCorrBound)
    (ht : s.tovFlag = true → (s.countBy n).tbCnt.toNat < s.cfg.tbCorrBound) :
    combinedCount (s.countBy n) = combinedCount s + n := by
  have hcnt : (s.countBy n).tbCnt.toNat = s.tbCnt.toNat + n := by
    rw [State.countBy_tbCnt, toNat_countedCnt, Nat.mod_eq_of_lt hn]
  have hflag : (s.countBy n).tovFlag = s.tovFlag := by simp [wrapsWithin_of_lt hn]
  have hovf : correctedOvf (s.countBy n) = correctedOvf s := by
    cases hf : s.tovFlag with
    | true => rw [correctedOvf_of_pending hf (hs hf), correctedOvf_of_pending (hflag.trans hf) (ht hf)]; rfl
    | false => rw [correctedOvf_of_clear hf, correctedOvf_of_clear (hflag.trans hf)]; rfl
  rw [combinedCount, combinedCount, hovf, hcnt, Nat.add_assoc]

/-- A wrap with no overflow pending before it moves 65536 from the counter into the correction. -/
theorem combinedCount_countBy_of_wrap {n : Nat} (hwrap : 65536 ≤ s.tbCnt.toNat + n)
    (hn : s.tbCnt.toNat + n < 131072) (hflag : s.tovFlag = false)
    (hovf : s.tbOvf.toNat + 1 < 2 ^ s.cfg.ovfW)
    (ht : (s.countBy n).tbCnt.toNat < s.cfg.tbCorrBound) :
    combinedCount (s.countBy n) = combinedCount s + n := by
  have hcnt : (s.countBy n).tbCnt.toNat = s.tbCnt.toNat + n - 65536 := by
    rw [State.countBy_tbCnt, toNat_countedCnt]
    omega
  have hpending : (s.countBy n).tovFlag = true := by simp [wrapsWithin_of_le hwrap]
  have hcorrected : correctedOvf (s.countBy n) = s.tbOvf.toNat + 1 :=
    (correctedOvf_of_pending hpending ht).trans (Nat.mod_eq_of_lt hovf)
  rw [combinedCount, combinedCount, hcorrected, hcnt, correctedOvf_of_clear hflag]
  omega

/-- The combined count advances by exactly the counts made (R143 a): they pass the counter's wrap at most
once, and only with no overflow pending. -/
theorem combinedCount_countBy {n : Nat} (hovf : correctedOvf s + 1 < 2 ^ s.cfg.ovfW)
    (hn : s.tbCnt.toNat + n < 131072)
    (hs : s.tovFlag = true → s.tbCnt.toNat < s.cfg.tbCorrBound ∧ s.tbCnt.toNat + n < 65536)
    (ht : (s.countBy n).tovFlag = true → (s.countBy n).tbCnt.toNat < s.cfg.tbCorrBound) :
    combinedCount (s.countBy n) = combinedCount s + n := by
  rcases Nat.lt_or_ge (s.tbCnt.toNat + n) 65536 with hbelow | hwrap
  · have hpending (hf : s.tovFlag = true) : (s.countBy n).tovFlag = true := by simp [hf]
    exact combinedCount_countBy_of_no_wrap hbelow (fun hf => (hs hf).1) fun hf => ht (hpending hf)
  · have hclear : s.tovFlag = false := Bool.eq_false_iff.2 fun hf => absurd (hs hf).2 (Nat.not_lt.2 hwrap)
    have hpending : (s.countBy n).tovFlag = true := by simp [wrapsWithin_of_le hwrap]
    rw [correctedOvf_of_clear hclear] at hovf
    exact combinedCount_countBy_of_wrap hwrap hn hclear hovf (ht hpending)

/-- Moving an overflow the correction already counts leaves the combined count (R131). -/
theorem combinedCount_countOverflow (hw : s.cfg.ovfW ≤ 32) (hflag : s.tovFlag = true)
    (hbound : s.tbCnt.toNat < s.cfg.tbCorrBound) :
    combinedCount s.countOverflow = combinedCount s := by
  have hovf : correctedOvf s.countOverflow = correctedOvf s := by
    rw [correctedOvf_of_pending hflag hbound, correctedOvf_of_clear (State.countOverflow_tovFlag s)]
    exact toNat_ofNat_of_lt (wrapW_lt _ _) hw
  rw [combinedCount, combinedCount, hovf, State.countOverflow_tbCnt]

theorem combinedCount_serviceOverflow (hw : s.cfg.ovfW ≤ 32)
    (hbound : s.tovFlag = true → s.tbCnt.toNat < s.cfg.tbCorrBound) :
    combinedCount s.serviceOverflow = combinedCount s := by
  unfold State.serviceOverflow
  split
  next hflag => exact combinedCount_countOverflow hw hflag (hbound hflag)
  next => rfl

/-- Settles O44. -/
theorem combinedCountIsExactWhileServiced : Obligations.CombinedCountIsExactWhileServiced := by
  refine ⟨fun n s t h _ hovf hn hs ht => ?_, fun s t h hw hbound => ?_⟩
  · obtain ⟨-, rfl⟩ := execEvCount_next h
    have hcount : combinedCount (s.quiet.countBy n.toNat) = combinedCount s + n.toNat :=
      combinedCount_countBy (s := s.quiet) hovf hn hs ht
    exact ⟨hcount, nowValue_mono rfl (by omega)⟩
  · obtain hirq | hended := h
    · obtain ⟨htake, hbody⟩ := takeInterrupt_next hirq
      obtain ⟨-, -, hpending⟩ := takeable_next htake
      obtain ⟨hflag, -⟩ := (pendingEnabled_overflow_iff s).1 hpending
      cases hbody
      exact combinedCount_countOverflow (s := { s.quiet with sleeping := false }) hw hflag (hbound hflag)
    · obtain ⟨-, rfl⟩ := simpleOperation_next hended
      exact combinedCount_serviceOverflow (s := s.kick) hw hbound

/-! The clock (R134). -/

/-- The 32-bit clock holds the whole of `now_value` under a configuration that meets R7. -/
theorem toNat_clock (hv : s.cfg.valid = true) (hovf : s.tbOvf.toNat < 2 ^ s.cfg.ovfW) :
    (clock s).toNat = nowValue s := by
  have hcond : s.cfg.Conditions := of_decide_eq_true hv
  obtain ⟨-, -, ⟨-, hwrap⟩, -⟩ := hcond
  have hnow := nowValue_lt hovf
  exact toNat_ofNat_of_lt (by omega) le_rfl

/-- Settles O45. -/
theorem clockFitsAndIsMonotoneInTheCount : Obligations.ClockFitsAndIsMonotoneInTheCount := by
  refine ⟨fun s t hv hovf h => ?_, fun s t => nowValue_mono⟩
  obtain ⟨-, rfl⟩ := simpleOperation_next h
  exact ⟨toNat_clock (s := s.kick) hv hovf, nowValue_lt hovf⟩

end Sys2Proof.Machine

/-! PROOF. The operations of the Monotonic Time Base, the polls of their waits and the overflow handler
(spec/40_timebase.md R131 to R141). -/

namespace Sys2Proof.Machine

variable {s t : State}

/-! Starting and stopping (R132, R133), and the two reads (R135, R136). -/

theorem pollSync_of_flag (h : s.tovFlag = true) :
    pollSync s = { s with tbOvf := 0, tovFlag := false, tovIe := true, wKind := 0 } := if_pos h

theorem pollSync_of_clear (h : s.tovFlag = false) : pollSync s = s := if_neg (by simp [h])

/-- Settles O1. -/
theorem timeBaseStartsAtATickBoundaryAndStops : Obligations.TimeBaseStartsAtATickBoundaryAndStops :=
  ⟨operationEffect_of_simple (fun _ => rfl) fun _ => rfl,
    fun _ ha hw hflag => exec_fgStep_of_wait .sync ha hw (pollSync_of_flag hflag),
    fun _ ha hw hflag => exec_fgStep_of_wait .sync ha hw (pollSync_of_clear hflag),
    operationEffect_of_simple (fun _ => rfl) fun _ => rfl⟩

/-- Settles O2: `TB.NOW` writes the clock, whose definition is R134's formula. -/
theorem clockReadsReturnTheScaledAndTheRawCount :
    Obligations.ClockReadsReturnTheScaledAndTheRawCount :=
  ⟨operationEffect_of_simple (fun _ => rfl) fun _ => rfl,
    operationEffect_of_simple (fun _ => rfl) fun _ => rfl⟩

/-! The millisecond wait (R137). -/

theorem mswaitIssue_of_zero {d : Nat} (hd : d = 0) : mswaitIssue d s = { s with wKind := 0 } := if_pos hd

theorem mswaitIssue_before_wrap {d : Nat} (hd : d ≠ 0) (hroom : d < s.cfg.msWrap - nowValue s) :
    mswaitIssue d s = { s with
      wT0 := BitVec.ofNat 32 (nowValue s), wTarget := BitVec.ofNat 32 (nowValue s + d), wKind := 2 } :=
  (if_neg hd).trans (if_pos hroom)

theorem mswaitIssue_past_wrap {d : Nat} (hd : d ≠ 0) (hroom : s.cfg.msWrap - nowValue s ≤ d) :
    mswaitIssue d s = { s with
      wT0 := BitVec.ofNat 32 (nowValue s),
      wRem := BitVec.ofNat 32 (d - (s.cfg.msWrap - nowValue s)), wKind := 3 } :=
  (if_neg hd).trans (if_neg (Nat.not_lt.2 hroom))

theorem pollMsNowrap_of_reached (h : s.wTarget.toNat ≤ nowValue s ∨ nowValue s < s.wT0.toNat) :
    pollMsNowrap s = { s with wKind := 0 } := if_pos h

theorem pollMsNowrap_of_waiting (h : nowValue s < s.wTarget.toNat ∧ s.wT0.toNat ≤ nowValue s) :
    pollMsNowrap s = s := if_neg (by omega)

theorem pollMsWrapwait_of_wrapped (h : nowValue s < s.wT0.toNat) :
    pollMsWrapwait s = mswaitIssue s.wRem.toNat s := if_pos h

theorem pollMsWrapwait_of_waiting (h : s.wT0.toNat ≤ nowValue s) : pollMsWrapwait s = s :=
  if_neg (Nat.not_lt.2 h)

/-- The poll that sees the clock turned back issues the wait again for the remainder (R137). -/
theorem exec_fgStep_of_wrapped (ha : Awake s) (hw : s.wKind = 3) (hnow : nowValue s < s.wT0.toNat)
    (hissue : mswaitIssue s.wRem.toNat s.kick = t) : exec (.fgStep 1) s = .next t :=
  exec_fgStep_of_wait .msWrapwait ha hw ((pollMsWrapwait_of_wrapped (s := s.kick) hnow).trans hissue)

/-- Settles O3: the issue and the wrap poll share `mswaitIssue`, in its three forms. -/
theorem msWaitIssuesAndPollsTheClock : Obligations.MsWaitIssuesAndPollsTheClock := by
  refine ⟨fun d s h => exec_refused_of_not_free rfl h, fun d s h => ?issue, fun s ha hw => ?poll,
    fun s ha hw => ?wrapPoll⟩
  case issue =>
    refine ⟨fun hd => durationOperation_out_of_domain h hd, ?_, fun hne hd hroom => ?_,
      fun hne hd hroom => ?_⟩
    · rintro rfl
      exact durationOperation_of_free h (Nat.succ_pos _) (mswaitIssue_of_zero rfl)
    · exact durationOperation_of_free h hd (mswaitIssue_before_wrap (toNat_ne_zero hne) hroom)
    · exact durationOperation_of_free h hd (mswaitIssue_past_wrap (toNat_ne_zero hne) hroom)
  case poll =>
    exact ⟨fun h => exec_fgStep_of_wait .msNowrap ha hw (pollMsNowrap_of_reached h),
      fun h => exec_fgStep_of_wait .msNowrap ha hw (pollMsNowrap_of_waiting h)⟩
  case wrapPoll =>
    refine ⟨fun h => ?_, fun hnow hrem => ?_, fun hnow hrem hroom => ?_, fun hnow hrem hroom => ?_⟩
    · exact exec_fgStep_of_wait .msWrapwait ha hw (pollMsWrapwait_of_waiting h)
    · exact exec_fgStep_of_wrapped ha hw hnow (mswaitIssue_of_zero (congrArg BitVec.toNat hrem))
    · exact exec_fgStep_of_wrapped ha hw hnow (mswaitIssue_before_wrap (toNat_ne_zero hrem) hroom)
    · exact exec_fgStep_of_wrapped ha hw hnow (mswaitIssue_past_wrap (toNat_ne_zero hrem) hroom)

/-! The tick wait (R138). -/

theorem pollTick_of_changed (h : s.tbOvf ≠ s.wT0) : pollTick s = { s with wKind := 0 } := if_pos h

theorem pollTick_of_same (h : s.tbOvf = s.wT0) : pollTick s = s := if_neg (not_not_intro h)

/-- Settles O4. -/
theorem tickWaitEndsWhenTheTickNumberChanges : Obligations.TickWaitEndsWhenTheTickNumberChanges :=
  ⟨operationEffect_of_simple (fun _ => rfl) fun _ => rfl, fun _ ha hw =>
    ⟨fun h => exec_fgStep_of_wait .tick ha hw (pollTick_of_changed h),
      fun h => exec_fgStep_of_wait .tick ha hw (pollTick_of_same h)⟩⟩

/-! The raw window (R139, R140, R141). -/

theorem tbRawstart_eq (d : BitVec 32) (s : State) :
    tbRawstart d s = { overflowServiced s with
      rawT0 := BitVec.ofNat 32 (nowValue (overflowServiced s)), rawDur := d } := by
  rw [tbRawstart, serviceOverflow_eq]
  rfl

theorem tbRawwaitIssue_eq (d : BitVec 32) (s : State) :
    tbRawwaitIssue d s = { overflowServiced s with
      rawT0 := BitVec.ofNat 32 (nowValue (overflowServiced s)), rawDur := d, wKind := 5 } := by
  rw [tbRawwaitIssue, tbRawstart_eq]
  rfl

/-- The window has elapsed when its age, with one wrap allowed, has reached its length (R11, R140). -/
theorem rawElapsed_iff (s : State) : rawElapsed s = true ↔ s.rawDur.toNat ≤ windowAge s :=
  decide_eq_true_iff

theorem tbRawended_eq (s : State) :
    tbRawended s = { overflowServiced s with
      res := if s.rawDur.toNat ≤ windowAge (overflowServiced s) then 1 else 0 } := by
  rw [tbRawended, serviceOverflow_eq, State.setRes, boolRes]
  simp only [rawElapsed_iff]

theorem pollRaw_eq (hw : s.wKind = 5) :
    pollRaw s = { overflowServiced s with
      wKind := if s.rawDur.toNat ≤ windowAge (overflowServiced s) then 0 else 5 } := by
  rw [pollRaw, serviceOverflow_eq]
  simp only [rawElapsed_iff]
  split
  next => rfl
  next => rw [← hw]

/-- Settles O5: each raw-mode step is its own effect on the state with the overflow serviced. -/
theorem rawWindowServicesTheOverflowAndMeasures :
    Obligations.RawWindowServicesTheOverflowAndMeasures := by
  refine ⟨fun d s h => ⟨?_, ?_⟩, fun d s h hd => ⟨?_, ?_⟩, fun d s h hd => ⟨?_, ?_⟩,
    operationEffect_of_simple (fun _ => rfl) fun s => tbRawended_eq s.kick, fun s ha hw => ?_⟩
  · exact exec_refused_of_not_free rfl h
  · exact exec_refused_of_not_free rfl h
  · exact durationOperation_out_of_domain h hd
  · exact durationOperation_out_of_domain h hd
  · exact durationOperation_of_free h hd (tbRawstart_eq d s.kick)
  · exact durationOperation_of_free h hd (tbRawwaitIssue_eq d s.kick)
  · exact exec_fgStep_of_wait .raw ha hw (pollRaw_eq hw)

/-! The overflow handler (R131). -/

/-- `IRQ.TOV` has the lowest priority: it is takeable when no other source is pending and enabled (R265). -/
theorem takeable_overflow_iff (s : State) : takeable .overflow s = true ↔
    Interruptible s ∧ TovPending s ∧ ¬OcPending s ∧ ¬LpPending s ∧ ¬AdcPending s := by
  have hhigher : higherThan .overflow = [.overCurrent, .lowPower, .conversion] := rfl
  rw [takeable_iff, hhigher]
  simp only [List.forall_mem_cons, List.not_mem_nil, false_implies, implies_true, and_true,
    pendingEnabled_overCurrent_iff, pendingEnabled_lowPower_iff, pendingEnabled_conversion_iff,
    pendingEnabled_overflow_iff]

/-- Settles O7. -/
theorem overflowHandlerCountsTheTick : Obligations.OverflowHandlerCountsTheTick := by
  refine fun s => ⟨fun hint htov hoc hlp hadc => ?_, fun h => ?_⟩
  · have htake := (takeable_overflow_iff s).2 ⟨hint, htov, hoc, hlp, hadc⟩
    exact takeInterrupt_of_takeable htake
  · exact takeInterrupt_of_not_takeable ((takeable_overflow_iff s).not.2 h)

end Sys2Proof.Machine

/-! PROOF. The conversion-complete handler (spec/41_adc.md R161): the next value of the accumulator and of
the sample-ready counter, with their tops (spec/60_exceptions.md R261), and the step the handler takes. -/

namespace Sys2Proof.Machine

variable {s : State} {c : Config} {sum bias acc src n : Nat}

/-! The accumulator and the counter (R161). -/

/-- MF3: the accumulator is raised to its top, or past it (R261). -/
abbrev ReachesAccTop (c : Config) (sum bias acc : Nat) : Prop :=
  bias ≤ sum ∧ 2 ^ c.accW - 1 ≤ acc + (sum - bias + 4) / 8

theorem accumulated_of_top_stop (h : ReachesAccTop c sum bias acc) (hc : c.onAccTop = .stop) :
    accumulated c sum bias acc = .error .accumulatorTop := by
  obtain ⟨hbias, htop⟩ := h
  have htop' : 2 ^ c.accW - 1 ≤ acc + rshr (sum - bias) accShift := htop
  simp only [accumulated, if_pos hbias, if_pos htop', hc]

theorem satAdd_of_top {w a x : Nat} (h : 2 ^ w - 1 ≤ a + x) : satAdd w a x = 2 ^ w - 1 := by
  unfold satAdd
  split <;> omega

theorem accumulated_of_top_hardware (h : ReachesAccTop c sum bias acc) (hc : c.onAccTop = .hardware) :
    accumulated c sum bias acc = .ok (2 ^ c.accW - 1) := by
  obtain ⟨hbias, htop⟩ := h
  have htop' : 2 ^ c.accW - 1 ≤ acc + rshr (sum - bias) accShift := htop
  simp only [accumulated, if_pos hbias, if_pos htop', hc, satAdd_of_top htop']

theorem clamp0Sub_eq (a x : Nat) : clamp0Sub a x = a - x := by
  unfold clamp0Sub
  split <;> omega

/-- Below the top the rounded eighth is added, or its magnitude subtracted; the clamp at 0 is the
subtraction of naturals. -/
theorem accumulated_of_not_top (h : ¬ReachesAccTop c sum bias acc) :
    accumulated c sum bias acc =
      .ok (if bias ≤ sum then acc + (sum - bias + 4) / 8 else acc - (bias - sum + 4) / 8) := by
  unfold accumulated
  split
  next hbias => exact if_neg fun htop => h ⟨hbias, htop⟩
  next => exact congrArg _ (clamp0Sub_eq _ _)

theorem srcCounted_of_top_stop (h : src = 2 ^ c.srcW - 1) (hc : c.onSrcTop = .stop) :
    srcCounted c src = .error .sampleCounterTop := by
  rw [srcCounted, if_pos h, hc]

theorem srcCounted_of_top_hardware (h : src = 2 ^ c.srcW - 1) (hc : c.onSrcTop = .hardware) :
    srcCounted c src = .ok 0 := by
  rw [srcCounted, if_pos h, hc]

theorem srcCounted_of_not_top (h : src ≠ 2 ^ c.srcW - 1) : srcCounted c src = .ok (src + 1) := if_neg h

/-! The handler (R161, R266). -/

/-- The accumulator the handler computes for the selected channel, from the window it has slid. -/
abbrev handlerAcc (s : State) : Except Fault Nat :=
  accumulated s.cfg ((s.chan s.adcMux).slide s.adcData).sum.toNat (s.chan s.adcMux).bias.toNat
    (s.chan s.adcMux).acc.toNat

/-- Only the detectors' sources come before `IRQ.ADC` (R265). -/
theorem takeable_conversion_iff (s : State) : takeable .conversion s = true ↔
    Interruptible s ∧ AdcPending s ∧ ¬OcPending s ∧ ¬LpPending s := by
  have hhigher : higherThan .conversion = [.overCurrent, .lowPower] := rfl
  rw [takeable_iff, hhigher]
  simp only [List.forall_mem_cons, List.not_mem_nil, false_implies, implies_true, and_true,
    pendingEnabled_overCurrent_iff, pendingEnabled_lowPower_iff, pendingEnabled_conversion_iff]

/-- The body ends in the fault of the accumulator. -/
theorem handleAdc_of_acc_error {f : Fault} (hacc : handlerAcc s = .error f) : handleAdc s = .fault f := by
  simp only [handleAdc, ChannelAcc.slide_bias, ChannelAcc.slide_acc, hacc]

/-- The body ends in the fault of the counter, once the accumulator has its value. -/
theorem handleAdc_of_src_error {f : Fault} (hacc : handlerAcc s = .ok acc)
    (hsrc : srcCounted s.cfg s.src.toNat = .error f) : handleAdc s = .fault f := by
  simp only [handleAdc, ChannelAcc.slide_bias, ChannelAcc.slide_acc, hacc, hsrc]

theorem handleAdc_of_ok (hacc : handlerAcc s = .ok acc) (hsrc : srcCounted s.cfg s.src.toNat = .ok n) :
    handleAdc s = .next { s.setChan s.adcMux
        { (s.chan s.adcMux).slide s.adcData with acc := BitVec.ofNat 32 acc } with
      src := BitVec.ofNat 32 n, adcMux := otherChannel s.adcMux, adcFlag := false } := by
  simp only [handleAdc, ChannelAcc.slide_bias, ChannelAcc.slide_acc, hacc, hsrc]

/-- The selector turns to the other channel (R161). -/
theorem otherChannel_eq (m : Channel) : otherChannel m = if m = .ch0 then .ch1 else .ch0 := by
  cases m <;> rfl

/-- Waking the foreground and pulsing nothing commute with writing a channel. -/
theorem setChan_awake_quiet (s : State) (m : Channel) (a : ChannelAcc) :
    State.setChan { s.quiet with sleeping := false } m a =
      { s.setChan m a with sleeping := false, wdtKick := false, lampPollReq := false } := by
  cases m <;> rfl

theorem exec_irqAdc_of_ok (h : takeable .conversion s = true) (hacc : handlerAcc s = .ok acc)
    (hsrc : srcCounted s.cfg s.src.toNat = .ok n) :
    exec .irqAdc s = .next { s.setChan s.adcMux
        { (s.chan s.adcMux).slide s.adcData with acc := BitVec.ofNat 32 acc } with
      src := BitVec.ofNat 32 n, adcMux := if s.adcMux = .ch0 then .ch1 else .ch0, adcFlag := false,
      sleeping := false, wdtKick := false, lampPollReq := false } := by
  have hbody := handleAdc_of_ok (s := { s.quiet with sleeping := false }) hacc hsrc
  rw [setChan_awake_quiet, otherChannel_eq] at hbody
  exact (takeInterrupt_of_takeable h).trans hbody

/-- Settles O13: an enabled handler is decided by the next accumulator, then by the next counter. -/
theorem conversionHandlerRunsThePerConversionAlgorithm :
    Obligations.ConversionHandlerRunsThePerConversionAlgorithm := by
  rintro s _ _ accTop srcTop acc rfl rfl haccTop hsrcTop hatTop hbelow
  have haccOk (hhw : accTop → s.cfg.onAccTop = .hardware) : handlerAcc s = .ok acc := by
    by_cases htop : accTop
    · rw [hatTop htop]
      exact accumulated_of_top_hardware (haccTop.1 htop) (hhw htop)
    · rw [hbelow htop]
      exact accumulated_of_not_top (haccTop.not.1 htop)
  refine ⟨fun hint hadc hoc hlp => ?enabled, fun h => ?refused⟩
  case refused => exact takeInterrupt_of_not_takeable ((takeable_conversion_iff s).not.2 h)
  case enabled =>
    have htake := (takeable_conversion_iff s).2 ⟨hint, hadc, hoc, hlp⟩
    refine ⟨fun hacc hsrc => ?next, fun htop hc => ?accFault, fun hacc htop hc => ?srcFault⟩
    case next =>
      by_cases htop : srcTop
      · have hcount := srcCounted_of_top_hardware (hsrcTop.1 htop) (hsrc htop)
        exact ⟨0, fun _ => rfl, fun h => absurd htop h, exec_irqAdc_of_ok htake (haccOk hacc) hcount⟩
      · have hcount := srcCounted_of_not_top (hsrcTop.not.1 htop)
        exact ⟨_, fun h => absurd h htop, fun _ => rfl, exec_irqAdc_of_ok htake (haccOk hacc) hcount⟩
    case accFault =>
      have hfault : handlerAcc s = .error .accumulatorTop := accumulated_of_top_stop (haccTop.1 htop) hc
      exact (takeInterrupt_of_takeable htake).trans (handleAdc_of_acc_error hfault)
    case srcFault =>
      have hfault := srcCounted_of_top_stop (hsrcTop.1 htop) hc
      exact (takeInterrupt_of_takeable htake).trans (handleAdc_of_src_error (haccOk hacc) hfault)

end Sys2Proof.Machine

/-! PROOF. The operations of the ADC Sampling Engine and the conversion-complete event (spec/41_adc.md R160
to R169). -/

namespace Sys2Proof.Machine

variable {s : State}

/-! The operations. -/

/-- Settles O8. -/
theorem converterStartsAtChannelZeroAndStopsClean :
    Obligations.ConverterStartsAtChannelZeroAndStopsClean :=
  ⟨operationEffect_of_simple (fun _ => rfl) fun _ => rfl,
    operationEffect_of_simple (fun _ => rfl) fun _ => rfl⟩

/-- The two branches of `ADC.ISUPDATED`, register by register (R166). -/
theorem adcIsupdated_eq (rounds : BitVec 8) (s : State) : adcIsupdated rounds s = { s with
    src := if 2 * rounds.toNat ≤ s.src.toNat then BitVec.ofNat 32 (s.src.toNat - 2 * rounds.toNat)
      else s.src
    res := if 2 * rounds.toNat ≤ s.src.toNat then 1 else 0 } := by
  by_cases h : 2 * rounds.toNat ≤ s.src.toNat
  · simp only [adcIsupdated, if_pos h]
    rfl
  · simp only [adcIsupdated, if_neg h]
    rfl

/-- Settles O9. -/
theorem isUpdatedIsAllOrNothing : Obligations.IsUpdatedIsAllOrNothing := fun rounds =>
  operationEffect_of_simple (fun _ => rfl) fun s => adcIsupdated_eq rounds s.kick

/-- Settles O10. -/
theorem calibrationTakesTheRunningSum : Obligations.CalibrationTakesTheRunningSum :=
  ⟨operationEffect_of_simple (fun _ => rfl) fun _ => rfl,
    operationEffect_of_simple (fun _ => rfl) fun _ => rfl⟩

/-! The readings (R165, R168, R169). -/

theorem ofNat_readingValue (a : ChannelAcc) : BitVec.ofNat 32 (readingValue a) =
    if a.sum.toNat ≤ a.bias.toNat then 0
    else BitVec.ofNat 32 ((a.sum.toNat - a.bias.toNat + 8) / 16) := by
  unfold readingValue
  split <;> rfl

/-- A reading of a window of sixteen samples is a sample again (R165). -/
theorem readingValue_le {a : ChannelAcc} (h : a.sum.toNat ≤ 16368) : readingValue a ≤ 1023 := by
  unfold readingValue rshr avgShift
  split <;> omega

theorem operationEffect_adcReading (c : Channel) : OperationEffect (.adcReading c) fun s => { s with
    res := if (s.chan c).sum.toNat ≤ (s.chan c).bias.toNat then 0
      else BitVec.ofNat 32 (((s.chan c).sum.toNat - (s.chan c).bias.toNat + 8) / 16)
    wdtKick := true
    lampPollReq := false } :=
  operationEffect_of_simple (fun _ => rfl) fun s => by
    rw [← ofNat_readingValue]
    cases c <;> rfl

/-- Settles O11. -/
theorem readingsAreRoundedAndClamped : Obligations.ReadingsAreRoundedAndClamped := by
  refine ⟨operationEffect_adcReading .ch0, operationEffect_adcReading .ch1, fun c s t hsum h => ?_,
    operationEffect_of_simple (fun _ => rfl) fun _ => rfl⟩
  obtain ⟨-, rfl⟩ := simpleOperation_next h
  have hchan : s.kick.chan c = s.chan c := by cases c <;> rfl
  have hle : readingValue (s.kick.chan c) ≤ 1023 := readingValue_le (hchan ▸ hsum)
  exact (Nat.mod_le _ _).trans hle

/-! The conversion-complete event (R160). -/

theorem converterReady_iff (s : State) :
    converterReady s = true ↔ s.adcEn = true ∧ (s.ilkHalted = false ∨ s.adcFlag = false) := by
  simp [converterReady]

theorem exec_evAdcdone_of_idle (x : Sample) (h : ¬converterReady s = true) :
    exec (.evAdcdone x) s = .refused .converterIdle := if_neg h

theorem exec_evAdcdone_of_serviced (x : Sample) (h : converterReady s = true) (hflag : s.adcFlag = false) :
    exec (.evAdcdone x) s = .next (s.quiet.deliver x) :=
  (if_pos h).trans (if_neg (by simp [hflag]))

/-- The overrun MF1 (R160). -/
theorem exec_evAdcdone_of_overrun_stop (x : Sample) (h : converterReady s = true)
    (hflag : s.adcFlag = true) (hc : s.cfg.onOverrun = .stop) :
    exec (.evAdcdone x) s = .fault .conversionOverrun :=
  (if_pos h).trans <| (if_pos hflag).trans <| by rw [hc]

/-- The hardware overwrites the sample (R261, log 10). -/
theorem exec_evAdcdone_of_overrun_hardware (x : Sample) (h : converterReady s = true)
    (hflag : s.adcFlag = true) (hc : s.cfg.onOverrun = .hardware) :
    exec (.evAdcdone x) s = .next (s.quiet.deliver x) :=
  (if_pos h).trans <| (if_pos hflag).trans <| by rw [hc]

/-- Settles O12: the converter's step is enabled, then the flag and the treatment decide. -/
theorem conversionDeliversTheSampleOrOverruns : Obligations.ConversionDeliversTheSampleOrOverruns := by
  intro x s
  refine ⟨fun hen => ?off, fun hen hflag => ?serviced, fun hen hflag hhalt => ?halted,
    fun hen hflag hhalt hc => ?stop, fun hen hflag hhalt hc => ?hardware⟩
  case off => exact exec_evAdcdone_of_idle x (by simp [converterReady_iff, hen])
  case halted => exact exec_evAdcdone_of_idle x (by simp [converterReady_iff, hflag, hhalt])
  case serviced =>
    exact exec_evAdcdone_of_serviced x ((converterReady_iff s).2 ⟨hen, .inr hflag⟩) hflag
  case stop =>
    exact exec_evAdcdone_of_overrun_stop x ((converterReady_iff s).2 ⟨hen, .inl hhalt⟩) hflag hc
  case hardware =>
    exact exec_evAdcdone_of_overrun_hardware x ((converterReady_iff s).2 ⟨hen, .inl hhalt⟩) hflag hc

end Sys2Proof.Machine

/-! PROOF. The detectors (spec/42_detectors.md): what their reads return, what clearing and arming write, and
the latching of an input's rising edge (R190 to R199). -/

namespace Sys2Proof.Machine

/-- Settles O15. -/
theorem detectorReadsReturnLevelAndLatch : Obligations.DetectorReadsReturnLevelAndLatch :=
  ⟨operationEffect_of_simple (fun _ => rfl) fun _ => rfl,
    operationEffect_of_simple (fun _ => rfl) fun _ => rfl,
    operationEffect_of_simple (fun _ => rfl) fun _ => rfl,
    operationEffect_of_simple (fun _ => rfl) fun _ => rfl⟩

/-- Settles O16. -/
theorem clearAndArmWriteTheLatch : Obligations.ClearAndArmWriteTheLatch :=
  ⟨operationEffect_of_simple (fun _ => rfl) fun _ => rfl,
    operationEffect_of_simple (fun _ => rfl) fun _ => rfl,
    operationEffect_of_simple (fun _ => rfl) fun _ => rfl,
    operationEffect_of_simple (fun _ => rfl) fun _ => rfl⟩

/-- The latch is set by the 0-to-1 change of the level, and stands otherwise (R190, R191). -/
theorem edgeLatch_eq_ite (pend level l : Bool) :
    edgeLatch pend level l = if level = false ∧ l = true then true else pend := by
  cases level <;> cases l <;> simp [edgeLatch]

/-- Settles O17. -/
theorem risingEdgesAreLatched : Obligations.RisingEdgesAreLatched := fun l s => by
  rw [← edgeLatch_eq_ite, ← edgeLatch_eq_ite]
  exact ⟨rfl, rfl⟩

end Sys2Proof.Machine

/-! PROOF. The order in which the sequencer arms and releases (spec/42_detectors.md R200;
spec/43_interlock.md R234 to R237). `ArmedFor n s` says that what is armed in `s` may be armed in interlock
state `n`. The interlock state only advances under the sequencer, so a step that arms nothing keeps the
order; the four micro-steps that arm something (AP.4, CL.1, SS.0, SS.1) end in a state where it may be. -/

namespace Sys2Proof.Machine

variable {s t : State} {n m : Nat}

/-- What holds of the state an effect writes holds of the next state it answers. -/
theorem holds_of_next {P : State → Prop} {u : State} (h : (.next u : StepResult) = .next t) (hu : P u) :
    P t := by
  injection h with h
  exact h ▸ hu

/-- What is armed or released in `s` may be so in interlock state `n` (R200, R234, R236, R237), and the
voltage channel is not calibrated (R235). -/
abbrev ArmedFor (n : Nat) (s : State) : Prop :=
  (s.ocIe = true → 3 ≤ n) ∧ (s.lpIe = true → 4 ≤ n) ∧ (s.tovIe = true ∨ s.wKind = 1 → 4 ≤ n) ∧
  (s.lampRst = false → 4 ≤ n) ∧ s.chan1.bias = 0

/-- `ArmInv` is `ArmedFor` at the present interlock state, asked under the sequencer only. -/
theorem armInv_iff (s : State) : ArmInv s ↔ (s.seqHold = false → ArmedFor s.ilkState.toNat s) := Iff.rfl

theorem ArmInv.armedFor (hs : ArmInv s) (hq : s.seqHold = false) : ArmedFor s.ilkState.toNat s :=
  (armInv_iff s).1 hs hq

theorem ArmedFor.bias (hs : ArmedFor n s) : s.chan1.bias = 0 := by
  obtain ⟨-, -, -, -, hbias⟩ := hs
  exact hbias

theorem ArmedFor.mono (hs : ArmedFor n s) (h : n ≤ m) : ArmedFor m s := by
  obtain ⟨hoc, hlp, htov, hlamp, hbias⟩ := hs
  exact ⟨fun e => (hoc e).trans h, fun e => (hlp e).trans h, fun e => (htov e).trans h,
    fun e => (hlamp e).trans h, hbias⟩

/-- From `SteadyState` on everything may be armed. -/
theorem ArmedFor.of_steady (h : 4 ≤ n) (hbias : s.chan1.bias = 0) : ArmedFor n s :=
  ⟨fun _ => by omega, fun _ => h, fun _ => h, fun _ => h, hbias⟩

/-- Both branches of a choice being armed for `n`, so is the choice. -/
theorem ArmedFor.branches {c : Prop} [Decidable c] (hs : ArmedFor n s) (ht : ArmedFor n t) :
    ArmedFor n (if c then s else t) := by
  split
  · exact hs
  · exact ht

/-! The effects that arm, disarm or end a wait. -/

theorem ArmedFor.ocArm (hs : ArmedFor n s) (hn : 3 ≤ n) : ArmedFor n (ocArm s) := by
  obtain ⟨-, hrest⟩ := hs
  exact ⟨fun _ => hn, hrest⟩

theorem ArmedFor.lrstAssert (hs : ArmedFor n s) : ArmedFor n (lrstAssert s) := by
  obtain ⟨hoc, hlp, htov, -, hbias⟩ := hs
  exact ⟨hoc, hlp, htov, nofun, hbias⟩

theorem ArmedFor.setWaitKind (hs : ArmedFor n s) {k : BitVec 3} (hk : k ≠ 1) :
    ArmedFor n { s with wKind := k } := by
  obtain ⟨hoc, hlp, htov, hrest⟩ := hs
  exact ⟨hoc, hlp, fun e => htov (e.imp_right fun h => absurd h hk), hrest⟩

theorem ArmedFor.setWait (hs : ArmedFor n s) (t0 target rem : BitVec 32) {k : BitVec 3} (hk : k ≠ 1) :
    ArmedFor n { s with wT0 := t0, wTarget := target, wRem := rem, wKind := k } :=
  setWaitKind (s := { s with wT0 := t0, wTarget := target, wRem := rem }) hs hk

theorem ArmedFor.endWait (hs : ArmedFor n s) : ArmedFor n { s with wKind := waitNone } :=
  hs.setWaitKind (by decide)

/-! The effects that write a computed number to another register, stated for every number. -/

theorem ArmedFor.setRes (hs : ArmedFor n s) (v : BitVec 32) : ArmedFor n (s.setRes v) := hs

theorem ArmedFor.setLastChange (hs : ArmedFor n s) (v : BitVec 32) :
    ArmedFor n { s with ilkLastChange := v } := hs

theorem ArmedFor.openWindow (hs : ArmedFor n s) (t0 d : BitVec 32) : ArmedFor n (s.openWindow t0 d) := hs

theorem ArmedFor.goto (hs : ArmedFor n s) (p : Position) : ArmedFor n (s.goto p) := hs

/-! The time base. -/

theorem ArmedFor.serviceOverflow (hs : ArmedFor n s) : ArmedFor n s.serviceOverflow :=
  branches (s := s.countOverflow) hs hs

theorem ArmedFor.tbRawstart (hs : ArmedFor n s) (d : BitVec 32) : ArmedFor n (tbRawstart d s) :=
  hs.serviceOverflow.openWindow _ d

theorem ArmedFor.tbRawwaitIssue (hs : ArmedFor n s) (d : BitVec 32) : ArmedFor n (tbRawwaitIssue d s) :=
  (hs.tbRawstart d).setWaitKind (by decide)

theorem ArmedFor.tbRawended (hs : ArmedFor n s) : ArmedFor n (tbRawended s) :=
  hs.serviceOverflow.setRes _

theorem ArmedFor.mswaitIssue (hs : ArmedFor n s) (d : Nat) : ArmedFor n (mswaitIssue d s) := by
  simp only [Machine.mswaitIssue]
  split
  · exact hs.endWait
  · split <;> exact hs.setWait _ _ _ (by decide)

/-- The overflow interrupt is enabled by the poll of `TB.START` only, whose wait may be in progress from
`SteadyState` on (R132, R237). -/
theorem ArmedFor.pollSync (hs : ArmedFor n s) (hw : s.wKind = 1) : ArmedFor n (pollSync s) := by
  obtain ⟨hoc, hlp, htov, hrest⟩ := hs
  unfold Machine.pollSync
  split
  · exact ⟨hoc, hlp, fun _ => htov (.inr hw), hrest⟩
  · exact ⟨hoc, hlp, htov, hrest⟩

theorem ArmedFor.waitPoll (hs : ArmedFor n s) (h : waitPoll s = .next t) : ArmedFor n t := by
  obtain ⟨hw, rfl⟩ | ⟨-, rfl⟩ | ⟨-, rfl⟩ | ⟨-, rfl⟩ | ⟨-, rfl⟩ := waitPoll_next h
  case inl => exact hs.pollSync hw
  case inr.inl => exact branches hs.endWait hs
  case inr.inr.inl => exact branches (hs.mswaitIssue _) hs
  case inr.inr.inr.inl => exact branches hs.endWait hs
  case inr.inr.inr.inr => exact branches hs.serviceOverflow.endWait hs.serviceOverflow

/-! The sequencer: what a micro-step arms may be armed in the state it ends in. -/

/-- A micro-step to position `p` arms what may be armed in the state of `p`. -/
theorem ArmedFor.of_next_goto {u : State} {p : Position} (h : (.next (u.goto p) : StepResult) = .next t)
    (hn : t.ilkState.toNat = n) (hu : p.state.toNat = n → ArmedFor n u) : ArmedFor n t := by
  obtain rfl := Host.Outcome.next.inj h
  exact hu hn

theorem ArmedFor.sysHalt (hs : ArmedFor n s) (h : sysHalt s = .next t) : ArmedFor n t := by
  obtain ⟨id, -, -, -, rfl⟩ := sysHalt_next h
  exact hs

theorem ArmedFor.sysSleep (hs : ArmedFor n s) (h : sysSleep s = .next t) : ArmedFor n t := by
  obtain ⟨-, ⟨-, rfl⟩ | ⟨-, rfl⟩⟩ := sysSleep_next h
  · exact hs
  · exact hs

theorem ArmedFor.adcIsupdated (hs : ArmedFor n s) (rounds : BitVec 8) :
    ArmedFor n (adcIsupdated rounds s) := by
  unfold Machine.adcIsupdated
  split <;> exact hs

theorem ArmedFor.stepVerdict (hs : ArmedFor n s) : ArmedFor n (stepVerdict s) := by
  unfold Machine.stepVerdict
  split <;> exact hs

theorem ArmedFor.microStep {p : Position} (hs : ArmedFor n s) (hn : t.ilkState.toNat = n)
    (h : microStep p s = .next t) : ArmedFor n t := by
  cases p with
  | ap4 => exact of_next_goto h hn fun h3 => hs.ocArm h3.le
  | cl1 | ss0 | ss1 => exact of_next_goto h hn fun h4 => of_steady h4.le hs.bias
  | cb0 =>
    unfold Machine.microStep at h
    obtain ⟨-, rfl⟩ := withDuration_next h
    exact (hs.tbRawwaitIssue _).goto _
  | ap1 =>
    unfold Machine.microStep at h
    obtain ⟨-, rfl⟩ := withDuration_next h
    exact (hs.tbRawstart _).goto _
  | pd0 => exact holds_of_next h (branches hs (branches hs hs))
  | cb3 | ss5 => exact holds_of_next h ((hs.adcIsupdated _).goto _)
  | cb5 | ap2 | cl0 | ss10 | ss11 => exact holds_of_next h (branches hs hs)
  | ap3 => exact holds_of_next h (hs.tbRawended.goto _)
  | ss3 | ss12 => exact holds_of_next h (((hs.setRes _).setLastChange _).goto _)
  | ap6 | sd0 => exact holds_of_next h hs.lrstAssert
  | ap7 | sd2 => exact hs.sysHalt h
  | ss4 => exact sysSleep (s := s.goto .ss5) hs h
  | ss9 => exact holds_of_next h hs.stepVerdict
  | cb1 | cb2 | cb4 | ap0 | ap5 | ss2 | ss6 | ss7 | ss8 | sd1 => exact holds_of_next h hs

/-! The foreground. -/

/-- A step that does not go back keeps the order if it arms only what its next state allows. -/
theorem ArmInv.advance (hs : ArmInv s) (hin : t.inputs = s.inputs)
    (hle : s.ilkState.toNat ≤ t.ilkState.toNat)
    (harm : ArmedFor t.ilkState.toNat s → ArmedFor t.ilkState.toNat t) : ArmInv t := by
  obtain ⟨-, -, -, -, -, -, -, hstrap⟩ := State.inputs_eq hin
  exact fun hq => harm ((hs.armedFor (hstrap ▸ hq)).mono hle)

theorem ArmInv.foregroundStep (hs : ArmInv s) (h : foregroundStep s = .next t) : ArmInv t := by
  obtain ⟨hhalted, hsleeping, ⟨-, hpoll⟩ | ⟨-, -, hseq⟩⟩ := foregroundStep_next h
  case inl =>
    have hframe := (OperationFrame.kick ⟨hhalted, hsleeping⟩).waitPoll hpoll
    obtain ⟨hin, -, -, hstate, -⟩ := hframe
    exact hs.advance hin (congrArg BitVec.toNat hstate).ge fun hu => ArmedFor.waitPoll (s := s.kick) hu hpoll
  case inr =>
    obtain ⟨p, hp, hmicro⟩ := sequencerStep_next hseq
    obtain ⟨hstate, -⟩ := State.position_some hp
    have heffect := foregroundStep_effect h
    obtain ⟨hle, -⟩ := heffect.advances (hstate ▸ p.state_le)
    exact hs.advance heffect.inputs hle fun hu => ArmedFor.microStep (s := s.kick) hu rfl hmicro

/-! The instructions and the step. -/

/-- An operation word runs under a test master only, of whom the order asks nothing (R106). -/
theorem ArmInv.of_operation {i : Instr} (hi : isOperation i = true)
    (hkeep : keepsInputsAndWindows i = true) (h : exec i s = .next t) : ArmInv t := by
  by_cases hfree : ForegroundFree s
  · obtain ⟨hmaster, -⟩ := hfree
    obtain ⟨-, -, -, -, -, -, -, hstrap⟩ := State.inputs_eq (exec_effect hkeep h).inputs
    simp [ArmInv, hstrap, hmaster]
  · obtain ⟨r, hr⟩ := exec_refused_of_not_free hi hfree
    rw [hr] at h
    cases h

theorem ArmInv.haltCode (hs : ArmInv s) (id : BitVec 4) : ArmInv (s.haltCode id) :=
  fun hq => ArmedFor.of_steady (show 4 ≤ 5 by decide) (hs.armedFor hq).bias

theorem ArmInv.lrstAssert (hs : ArmInv s) : ArmInv (lrstAssert s) := fun hq => (hs.armedFor hq).lrstAssert

/-- A channel that keeps its bias keeps the order: of the channels it asks for the bias only. -/
theorem ArmInv.setChan (hs : ArmInv s) (c : Channel) {a : ChannelAcc} (ha : a.bias = (s.chan c).bias) :
    ArmInv (s.setChan c a) := by
  cases c with
  | ch0 => exact hs
  | ch1 =>
    intro hq
    obtain ⟨hoc, hlp, htov, hlamp, hbias⟩ := hs hq
    exact ⟨hoc, hlp, htov, hlamp, ha.trans hbias⟩

/-- After a reset nothing is armed, the lamp is held in reset and no bias is calibrated (R54). -/
theorem ArmInv.resetTo (s : State) (wdt hold oc lp : Bool) (cnt : BitVec 16) :
    ArmInv (s.resetTo wdt hold oc lp cnt) := by
  have hwait : ¬(false = true ∨ (0 : BitVec 3) = 1) := by decide
  exact fun _ => ⟨nofun, nofun, fun h => absurd h hwait, nofun, rfl⟩

theorem ArmInv.exec {i : Instr} (hs : ArmInv s) (h : exec i s = .next t) : ArmInv t := by
  cases i with
  | evCount n =>
    obtain ⟨-, rfl⟩ := execEvCount_next h
    exact hs
  | evAdcdone x =>
    obtain ⟨-, -, rfl⟩ := execEvAdcdone_next h
    exact hs
  | evOc _ | evLp _ | evLamp _ => exact holds_of_next h hs
  | evWdtexp hold oc lp cnt =>
    obtain ⟨-, rfl⟩ := execEvWdtexp_next h
    exact resetTo s _ hold oc lp cnt
  | evPor hold oc lp cnt => exact holds_of_next h (resetTo s _ hold oc lp cnt)
  | irqOc =>
    obtain ⟨-, hbody⟩ := takeInterrupt_next h
    exact holds_of_next hbody (haltCode (s := { s.quiet with sleeping := false, pwrEn := false }) hs _)
  | irqLp =>
    obtain ⟨-, hbody⟩ := takeInterrupt_next h
    have hheld := lrstAssert (s := { s.quiet with sleeping := false, pwrEn := false }) hs
    exact holds_of_next hbody (hheld.haltCode _)
  | irqAdc =>
    obtain ⟨_, _, _, rfl⟩ := exec_irqAdc_next h
    exact setChan (s := { s.quiet with sleeping := false }) hs s.adcMux rfl
  | irqTov =>
    obtain ⟨-, hbody⟩ := takeInterrupt_next h
    exact holds_of_next hbody hs
  | fgStep n =>
    obtain ⟨-, hsteps⟩ := execFgStep_next h
    exact foregroundSteps_keeps (fun _ _ hu h => hu.foregroundStep h) _ _ _ hs hsteps
  | _ => exact of_operation rfl rfl h

/-- Settles O58: an executed word keeps the order, and no other step writes a register it speaks of. -/
theorem stepKeepsTheArmingOrder : Obligations.StepKeepsTheArmingOrder := by
  intro s t hs h
  obtain ⟨-, ⟨-, rfl⟩ | ⟨w, rest, -, ⟨i, -, hexec⟩ | ⟨e, -, hillegal⟩⟩⟩ := step_next h
  · exact hs
  · exact ArmInv.exec (s := { s with trace := rest }) hs hexec
  · obtain ⟨-, -, rfl⟩ := illegalWord_next hillegal
    exact hs

end Sys2Proof.Machine

/-! PROOF. The power rule (spec/43_interlock.md R210, R211, R231, R232, R239). `State.standing` gathers the
registers the rule speaks of. Most effects keep them all; `Micro` says once where a micro-step of the
sequencer moves, what it makes of the power enable and from where it halts, and the rule, the list of state
changes and the one place that applies power are read off the table of positions. -/

namespace Sys2Proof.Machine

variable {s t u : State} {p q : Position}

/-- The strap, the halt, the position, the recorded condition and the power enable. -/
def State.standing (s : State) : Bool × Bool × BitVec 3 × BitVec 4 × BitVec 4 × Bool :=
  (s.seqHold, s.ilkHalted, s.ilkState, s.ilkPhase, s.ilkFc, s.pwrEn)

theorem State.standing_eq (h : t.standing = s.standing) :
    t.seqHold = s.seqHold ∧ t.ilkHalted = s.ilkHalted ∧ t.ilkState = s.ilkState ∧
    t.ilkPhase = s.ilkPhase ∧ t.ilkFc = s.ilkFc ∧ t.pwrEn = s.pwrEn := by
  simpa [State.standing] using h

/-! The effects that keep the standing. -/

theorem standing_setChan (s : State) (c : Channel) (a : ChannelAcc) :
    (s.setChan c a).standing = s.standing := by cases c <;> rfl

theorem standing_serviceOverflow (s : State) : s.serviceOverflow.standing = s.standing := by
  unfold State.serviceOverflow
  split <;> rfl

theorem standing_tbRawstart (d : BitVec 32) (s : State) : (tbRawstart d s).standing = s.standing :=
  standing_serviceOverflow s

theorem standing_tbRawwaitIssue (d : BitVec 32) (s : State) :
    (tbRawwaitIssue d s).standing = s.standing := standing_serviceOverflow s

theorem standing_tbRawended (s : State) : (tbRawended s).standing = s.standing :=
  standing_serviceOverflow s

theorem standing_mswaitIssue (d : Nat) (s : State) : (mswaitIssue d s).standing = s.standing := by
  simp only [mswaitIssue]
  split
  · rfl
  · split <;> rfl

theorem standing_adcIsupdated (rounds : BitVec 8) (s : State) :
    (adcIsupdated rounds s).standing = s.standing := by
  unfold adcIsupdated
  split <;> rfl

theorem standing_adcCalbias (ch : Channel) (s : State) : (adcCalbias ch s).standing = s.standing :=
  standing_setChan s ch _

theorem waitPoll_standing (h : waitPoll s = .next t) : t.standing = s.standing := by
  obtain ⟨-, rfl⟩ | ⟨-, rfl⟩ | ⟨-, rfl⟩ | ⟨-, rfl⟩ | ⟨-, rfl⟩ := waitPoll_next h
  case inl => unfold pollSync; split <;> rfl
  case inr.inl => unfold pollMsNowrap; split <;> rfl
  case inr.inr.inl => unfold pollMsWrapwait; split; exacts [standing_mswaitIssue _ s, rfl]
  case inr.inr.inr.inl => unfold pollTick; split <;> rfl
  case inr.inr.inr.inr => unfold pollRaw; split <;> exact standing_serviceOverflow s

/-! The instructions that keep the standing. -/

theorem operation_standing {f : State → StepResult} (h : operation s f = .next t)
    (hf : ∀ u, f u = .next t → t.standing = u.standing) : t.standing = s.standing := by
  obtain ⟨-, h⟩ := operation_next h
  exact hf s.kick h

theorem simpleOperation_standing {f : State → State} (h : simpleOperation s f = .next t)
    (hf : ∀ u, (f u).standing = u.standing) : t.standing = s.standing := by
  obtain ⟨-, rfl⟩ := simpleOperation_next h
  exact hf s.kick

theorem durationOperation_standing {d : BitVec 32} {f : State → State}
    (h : operation s (fun u => withDuration d u f) = .next t)
    (hf : ∀ u, (f u).standing = u.standing) : t.standing = s.standing :=
  operation_standing h fun u h => by
    obtain ⟨-, rfl⟩ := withDuration_next h
    exact hf u

theorem sysSleep_standing (h : sysSleep s = .next t) : t.standing = s.standing := by
  obtain ⟨-, ⟨-, rfl⟩ | ⟨-, rfl⟩⟩ := sysSleep_next h <;> rfl

/-- All instructions but the power enable's two, the halts, the resets and the foreground's own steps. -/
def keepsStanding : Instr → Bool
  | .pwrOn | .pwrOff | .sysHalt | .irqOc | .irqLp | .evWdtexp _ _ _ _ | .evPor _ _ _ _ | .fgStep _ => false
  | _ => true

theorem exec_standing {i : Instr} (hi : keepsStanding i = true) (h : exec i s = .next t) :
    t.standing = s.standing := by
  cases i with
  | pwrOn | pwrOff | sysHalt | irqOc | irqLp | evWdtexp _ _ _ _ | evPor _ _ _ _ | fgStep _ => cases hi
  | tbMswait d => exact durationOperation_standing h (standing_mswaitIssue _)
  | tbRawstart d => exact durationOperation_standing h (standing_tbRawstart d)
  | tbRawwait d => exact durationOperation_standing h (standing_tbRawwaitIssue d)
  | tbRawended => exact simpleOperation_standing h standing_tbRawended
  | adcIsupdated rounds => exact simpleOperation_standing h (standing_adcIsupdated rounds)
  | adcCalbias ch => exact simpleOperation_standing h (standing_adcCalbias ch)
  | sysSleep => exact operation_standing h fun _ h => sysSleep_standing h
  | tbStart | tbStop | tbNow | tbTicknum | tbTickwait | adcStart | adcStop | adcReading _ | adcAcccharge
  | ocTripped | ocPending | ocClear | ocArm | lpTripped | lpPending | lpClear | lpArm | lrstAssert
  | lrstRelease | sysIrqen | sysIrqdis | wdtKick | lampPoll =>
    exact simpleOperation_standing h fun _ => rfl
  | evCount n =>
    obtain ⟨-, rfl⟩ := execEvCount_next h
    rfl
  | evAdcdone x =>
    obtain ⟨-, -, rfl⟩ := execEvAdcdone_next h
    rfl
  | evOc _ | evLp _ | evLamp _ =>
    injection h with h
    exact h ▸ rfl
  | irqAdc =>
    obtain ⟨_, _, _, rfl⟩ := exec_irqAdc_next h
    exact standing_setChan _ s.adcMux _
  | irqTov =>
    obtain ⟨-, hbody⟩ := takeInterrupt_next h
    injection hbody with hbody
    exact hbody ▸ rfl

/-! The micro-steps: where they move, what they make of the power enable, and from where they halt. -/

/-- The positions a micro-step moves to (R232). -/
def Position.successors : Position → List Position
  | .pd0 => [.cb0]
  | .cb0 => [.cb1]
  | .cb1 => [.cb2]
  | .cb2 => [.cb3]
  | .cb3 => [.cb4, .cb3]
  | .cb4 => [.cb5]
  | .cb5 => [.ap0]
  | .ap0 => [.ap1]
  | .ap1 => [.ap2]
  | .ap2 => [.ap5, .ap3]
  | .ap3 => [.ap4, .ap2]
  | .ap4 => [.cl0]
  | .ap5 => [.ap6]
  | .ap6 => [.ap7]
  | .cl0 => [.sd0, .cl1]
  | .cl1 => [.ss0]
  | .ss0 => [.ss1]
  | .ss1 => [.ss2]
  | .ss2 => [.ss3]
  | .ss3 => [.ss4]
  | .ss4 => [.ss5]
  | .ss5 => [.ss6, .ss10]
  | .ss6 => [.ss7]
  | .ss7 => [.ss8]
  | .ss8 => [.ss9]
  | .ss9 => [.ss4, .sd2, .sd0]
  | .ss10 => [.ss11, .ss4]
  | .ss11 => [.ss12, .ss4]
  | .ss12 => [.ss4]
  | .sd0 => [.sd1]
  | .sd1 => [.sd2]
  | .ap7 | .sd2 => []

/-- The power enable after the micro-step from one position to another: AP.0 applies power; AP.5, SD.1 and
the current ceiling at SS.9 cut it (R232). -/
def powerAfter (p q : Position) (power : Bool) : Bool :=
  match p, q with
  | .ap0, _ => true
  | .ap5, _ | .sd1, _ | .ss9, .sd2 => false
  | _, _ => power

/-- The positions at which a micro-step can halt (R232). -/
def haltPositions : List Position := [.pd0, .cb5, .ap7, .sd2]

/-- What the micro-step at `p` does of the standing. -/
inductive MicroEffect (p : Position) (s t : State) : Prop where
  | moves (q : Position) (hq : q ∈ p.successors) (hstrap : t.seqHold = s.seqHold)
      (hhalted : t.ilkHalted = s.ilkHalted) (hstate : t.ilkState = q.state) (hphase : t.ilkPhase = q.phase)
      (hpower : t.pwrEn = powerAfter p q s.pwrEn)
  | halts (hp : p ∈ haltPositions) (hstrap : t.seqHold = s.seqHold) (hhalted : t.ilkHalted = true)
      (hstate : t.ilkState = 5) (hpower : t.pwrEn = s.pwrEn)

theorem MicroEffect.goto (hu : u.standing = s.standing) (hq : q ∈ p.successors)
    (hpower : powerAfter p q s.pwrEn = s.pwrEn) : MicroEffect p s (u.goto q) := by
  obtain ⟨hstrap, hhalted, -, -, -, hkept⟩ := State.standing_eq hu
  exact .moves q hq hstrap hhalted rfl rfl (hkept.trans hpower.symm)

/-- Of a branch both targets are asked for. -/
theorem MicroEffect.ite {c : Prop} [Decidable c] {a b : State} (ha : MicroEffect p s a)
    (hb : MicroEffect p s b) : MicroEffect p s (if c then a else b) := by
  split
  · exact ha
  · exact hb

theorem MicroEffect.branch {q' : Position} (hu : u.standing = s.standing) (hq : q ∈ p.successors)
    (hq' : q' ∈ p.successors) (hpower : powerAfter p q s.pwrEn = s.pwrEn)
    (hpower' : powerAfter p q' s.pwrEn = s.pwrEn) : MicroEffect p s (u.branch q q') := by
  unfold State.branch
  split
  · exact .goto hu hq hpower
  · exact .goto hu hq' hpower'

theorem MicroEffect.note (hu : u.standing = s.standing) (fc : FatalCondition) (hq : q ∈ p.successors)
    (hpower : powerAfter p q s.pwrEn = s.pwrEn) : MicroEffect p s (u.note fc q) := by
  obtain ⟨hstrap, hhalted, -, -, -, hkept⟩ := State.standing_eq hu
  exact .moves q hq hstrap hhalted rfl rfl (hkept.trans hpower.symm)

theorem MicroEffect.sysHalt (hp : p ∈ haltPositions) (h : sysHalt s = .next t) : MicroEffect p s t := by
  obtain ⟨id, -, -, -, rfl⟩ := sysHalt_next h
  exact .halts hp rfl rfl rfl rfl

theorem MicroEffect.stepVerdict (s : State) : MicroEffect .ss9 s (stepVerdict s) := by
  unfold Machine.stepVerdict
  split
  · exact .goto (u := { s with ilkCadence := _ }) rfl (by decide) rfl
  · exact .moves .sd2 (by decide) rfl rfl rfl rfl rfl
  · exact .note rfl _ (by decide) rfl

theorem microStep_effect (hseq : s.seqHold = false) (h : microStep p s = .next t) : MicroEffect p s t := by
  cases p with
  | pd0 =>
    have hstep : stepPoweredDown s = if s.rstCauseWdt then s.quiet.halt .watchdogCause else s.goto .cb0 :=
      if_neg (by simp [hseq])
    refine holds_of_next h ?_
    rw [hstep]
    refine .ite ?_ ?_
    · exact .halts (by decide) rfl rfl rfl rfl
    · exact .goto rfl (by decide) rfl
  | cb0 =>
    unfold microStep at h
    obtain ⟨-, rfl⟩ := withDuration_next h
    exact .goto (standing_tbRawwaitIssue _ s) (by decide) rfl
  | ap1 =>
    unfold microStep at h
    obtain ⟨-, rfl⟩ := withDuration_next h
    exact .goto (standing_tbRawstart _ s) (by decide) rfl
  | cb3 | ss5 =>
    exact holds_of_next h (.branch (standing_adcIsupdated _ s) (by decide) (by decide) rfl rfl)
  | ap3 => exact holds_of_next h (.branch (standing_tbRawended s) (by decide) (by decide) rfl rfl)
  | cb5 =>
    refine holds_of_next h (.ite ?_ ?_)
    · exact .halts (by decide) rfl rfl rfl rfl
    · exact .goto (u := ocTripped s) rfl (by decide) rfl
  | ap2 =>
    refine holds_of_next h (.ite ?_ ?_)
    · exact .note (s := s) (u := ocTripped s) rfl _ (by decide) rfl
    · exact .goto (u := ocTripped s) rfl (by decide) rfl
  | cl0 =>
    refine holds_of_next h (.ite ?_ ?_)
    · exact .note (s := s) (u := lpTripped s) rfl _ (by decide) rfl
    · exact .goto (u := lpTripped s) rfl (by decide) rfl
  | ap0 | ap5 | sd1 => exact holds_of_next h (.moves _ (List.mem_singleton_self _) rfl rfl rfl rfl rfl)
  | ap7 | sd2 => exact .sysHalt (by decide) h
  | ss4 =>
    obtain ⟨-, ⟨-, rfl⟩ | ⟨-, rfl⟩⟩ := sysSleep_next h
    · exact .goto rfl (by decide) rfl
    · exact .goto (s := s) (q := .ss5) (u := { s with sleeping := true }) rfl (by decide) rfl
  | ss9 => exact holds_of_next h (.stepVerdict s)
  | ss10 =>
    refine holds_of_next h (.ite ?_ ?_)
    · exact .goto (u := { tbTicknum s with ilkLastTick := _ }) rfl (by decide) rfl
    · exact .goto (u := tbTicknum s) rfl (by decide) rfl
  | ss11 =>
    refine holds_of_next h (.ite ?_ ?_)
    · exact .goto (u := { lampPoll s with ilkCadence := _ }) rfl (by decide) rfl
    · exact .goto (u := lampPoll s) rfl (by decide) rfl
  | cb1 | cb2 | cb4 | ap4 | ap6 | cl1 | ss0 | ss1 | ss2 | ss3 | ss6 | ss7 | ss8 | ss12 | sd0 =>
    exact holds_of_next h (.goto rfl (List.mem_singleton_self _) rfl)

/-- A foreground step polls a wait and leaves the standing, or is the micro-step of the sequencer. -/
theorem foregroundStep_cases (h : foregroundStep s = .next t) :
    t.standing = s.standing ∨ ∃ p, SequencerAt p s ∧ MicroEffect p s t := by
  obtain ⟨hhalted, hsleeping, ⟨-, hpoll⟩ | ⟨hw, hseq, hstep⟩⟩ := foregroundStep_next h
  · exact .inl (waitPoll_standing (s := s.kick) hpoll)
  · obtain ⟨p, hp, hmicro⟩ := sequencerStep_next hstep
    obtain ⟨hstate, hphase⟩ := State.position_some hp
    -- the kick changes no register of the standing
    have heffect : MicroEffect p s.kick t := microStep_effect hseq hmicro
    refine .inr ⟨p, ⟨⟨hhalted, hsleeping⟩, hw, hseq, hstate, hphase⟩, ?_⟩
    cases heffect with
    | moves q hq hstrap hhalted hstate hphase hpower => exact .moves q hq hstrap hhalted hstate hphase hpower
    | halts hp hstrap hhalted hstate hpower => exact .halts hp hstrap hhalted hstate hpower

/-! The power rule (R239). -/

/-- The two invariants the power rule needs together: under a test master the condition recorded at the
halt is FC10 because none was noted before. -/
abbrev PowerRule (s : State) : Prop := MasterInv s ∧ PowerInv s

theorem PowerRule.of_standing (hs : PowerRule s) (h : t.standing = s.standing) : PowerRule t := by
  obtain ⟨hstrap, hhalted, hstate, hphase, hfc, hpower⟩ := State.standing_eq h
  unfold PowerRule MasterInv PowerInv State.position at *
  rwa [hstrap, hhalted, hstate, hphase, hfc, hpower]

/-- A halt with the power cut keeps the rule, whoever caused it. -/
theorem PowerRule.of_halted (hhalted : t.ilkHalted = true) (hpower : t.pwrEn = false) : PowerRule t :=
  ⟨fun _ h => by simp [hhalted] at h, fun _ _ => hpower, fun _ _ _ => hpower⟩

/-- Under a test master the rule asks nothing of the power enable before a halt. -/
theorem PowerRule.of_master (hstrap : t.seqHold = true) (h : MasterInv t) (hhalted : t.ilkHalted = false) :
    PowerRule t :=
  ⟨h, fun h => by simp [hhalted] at h, fun h => by simp [hstrap] at h⟩

/-- At these positions the sequencer has not applied power, or has cut it (R239 d). -/
abbrev Position.Unpowered (p : Position) : Prop :=
  p.state.toNat ≤ 1 ∨ some p = some .ap6 ∨ some p = some .ap7 ∨ some p = some .sd2

theorem PowerRule.power_off (hs : PowerRule s) (h : SequencerAt p s) (hp : p.Unpowered) :
    s.pwrEn = false := by
  obtain ⟨⟨hhalted, -⟩, -, hstrap, hstate, hphase⟩ := h
  obtain ⟨-, -, hoff⟩ := hs
  refine hoff hstrap hhalted ?_
  rwa [hstate, State.position_of hstate hphase]

theorem unpowered_of_halt : ∀ p ∈ haltPositions, p.Unpowered := by decide

/-- The micro-steps arrive at an unpowered position from one, or by cutting the power. -/
theorem powerAfter_eq_false (p : Position) : ∀ q ∈ p.successors, q.Unpowered → ∀ power : Bool,
    (p.Unpowered → power = false) → powerAfter p q power = false := by
  cases p <;> decide

theorem PowerRule.micro (hs : PowerRule s) (hat : SequencerAt p s) (h : MicroEffect p s t) :
    PowerRule t := by
  have hoff := hs.power_off hat
  obtain ⟨⟨hawake, -⟩, -, hseq, -⟩ := hat
  cases h with
  | moves q hq hstrap hhalted hstate hphase hpower =>
    refine ⟨fun h => by simp [hstrap, hseq] at h, fun h => by simp [hhalted, hawake] at h, fun _ _ hp => ?_⟩
    rw [hstate, State.position_of hstate hphase] at hp
    exact hpower.trans (powerAfter_eq_false p q hq hp _ hoff)
  | halts hp _ hhalted _ hpower => exact .of_halted hhalted (hpower.trans (hoff (unpowered_of_halt p hp)))

theorem PowerRule.foregroundStep (hs : PowerRule s) (h : foregroundStep s = .next t) : PowerRule t := by
  obtain hkept | ⟨p, hat, hmicro⟩ := foregroundStep_cases h
  · exact hs.of_standing hkept
  · exact hs.micro hat hmicro

/-- `SYS.HALT` of a test master: no condition was noted, so it names FC10 (R217). -/
theorem PowerRule.sysHalt (hs : PowerRule s) (hfree : ForegroundFree s) (h : sysHalt s = .next t) :
    PowerRule t := by
  obtain ⟨hmaster, hhalted, -⟩ := hfree
  obtain ⟨hinv, -⟩ := hs
  obtain ⟨-, -, hfc⟩ := hinv hmaster hhalted
  obtain ⟨id, -, hten, -, rfl⟩ := sysHalt_next h
  have hexempt : ¬(s.seqHold = false ∨ id ≠ 10) := by simp [hmaster, hten hfc]
  exact ⟨fun _ => nofun, fun _ h => absurd h hexempt, fun _ => nofun⟩

/-- After a reset the sequencer stands at PD.0 with no condition and the power off (R54). -/
theorem PowerRule.resetTo (s : State) (wdt hold oc lp : Bool) (cnt : BitVec 16) :
    PowerRule (s.resetTo wdt hold oc lp cnt) :=
  ⟨fun _ _ => ⟨rfl, rfl, rfl⟩, fun _ _ => rfl, fun _ _ _ => rfl⟩

theorem PowerRule.exec {i : Instr} (hs : PowerRule s) (h : exec i s = .next t) : PowerRule t := by
  cases i with
  | pwrOn | pwrOff =>
    obtain ⟨⟨hmaster, hhalted, -⟩, rfl⟩ := simpleOperation_next h
    obtain ⟨hinv, -⟩ := hs
    exact .of_master hmaster hinv hhalted
  | sysHalt =>
    obtain ⟨hfree, h⟩ := operation_next h
    exact PowerRule.sysHalt (s := s.kick) hs hfree h
  | irqOc | irqLp =>
    obtain ⟨-, hbody⟩ := takeInterrupt_next h
    exact holds_of_next hbody (.of_halted rfl rfl)
  | evWdtexp hold oc lp cnt =>
    obtain ⟨-, rfl⟩ := execEvWdtexp_next h
    exact resetTo s _ hold oc lp cnt
  | evPor hold oc lp cnt => exact holds_of_next h (resetTo s _ hold oc lp cnt)
  | fgStep n =>
    obtain ⟨-, hsteps⟩ := execFgStep_next h
    exact foregroundSteps_keeps (fun _ _ hu h => hu.foregroundStep h) _ _ _ hs hsteps
  | _ => exact hs.of_standing (exec_standing rfl h)

/-- Settles O57: an executed word keeps the rule, and no other step writes a register it speaks of. -/
theorem stepKeepsThePowerRule : Obligations.StepKeepsThePowerRule := by
  intro s t hs h
  obtain ⟨-, ⟨-, rfl⟩ | ⟨w, rest, -, ⟨i, -, hexec⟩ | ⟨e, -, hillegal⟩⟩⟩ := step_next h
  · exact hs
  · exact PowerRule.exec (s := { s with trace := rest }) hs hexec
  · obtain ⟨-, -, rfl⟩ := illegalWord_next hillegal
    exact hs

/-- What every step keeps holds in every state a run reaches. -/
theorem run_keeps {P : State → Prop} (hstep : ∀ s t, P s → step s = .next t → P t) (k : Nat) :
    ∀ s t : State, P s → Host.Core.run Sys2Proof.core k s = .next t → P t := by
  induction k with
  | zero => intro s t hs h; exact holds_of_next h hs
  | succ k ih =>
    intro s t hs h
    cases hu : step s with
    | next u => exact ih u t (hstep s u hs hu) (run_of_next (M := Sys2Proof.core) hu k ▸ h)
    | fault f => rw [run_of_fault (M := Sys2Proof.core) hu] at h; cases h
    | refused r => rw [run_of_refused (M := Sys2Proof.core) hu] at h; cases h

/-- Settles O59: the power rule holds after every reset and every step keeps it. -/
theorem everyHaltedRunHasPowerOff : Obligations.EveryHaltedRunHasPowerOff := by
  intro c ws wdt hold oc lp cnt k t hrun hhalted hexempt
  have hstart := PowerRule.resetTo { State.reset with cfg := c, trace := ws } wdt hold oc lp cnt
  obtain ⟨-, hoff, -⟩ := run_keeps stepKeepsThePowerRule k _ t hstart hrun
  exact hoff hhalted hexempt

/-! Setting the power enable (R210, R211). -/

theorem powerAfter_eq_true (p q : Position) (h : powerAfter p q false = true) : p = .ap0 := by
  unfold powerAfter at h
  split at h
  · rfl
  all_goals cases h

theorem exec_pwrEn {i : Instr} (hon : i ≠ .pwrOn) (hfg : ∀ n, i ≠ .fgStep n) (h : exec i s = .next t) :
    t.pwrEn = s.pwrEn ∨ t.pwrEn = false := by
  cases i with
  | pwrOn => exact absurd rfl hon
  | fgStep n => exact absurd rfl (hfg n)
  | pwrOff =>
    obtain ⟨-, rfl⟩ := simpleOperation_next h
    exact .inr rfl
  | sysHalt =>
    obtain ⟨-, h⟩ := operation_next h
    obtain ⟨id, -, -, -, rfl⟩ := sysHalt_next h
    exact .inl rfl
  | irqOc | irqLp =>
    obtain ⟨-, hbody⟩ := takeInterrupt_next h
    injection hbody with hbody
    exact .inr (hbody ▸ rfl)
  | evWdtexp _ _ _ _ =>
    obtain ⟨-, rfl⟩ := execEvWdtexp_next h
    exact .inr rfl
  | evPor _ _ _ _ =>
    injection h with h
    exact .inr (h ▸ rfl)
  | _ =>
    obtain ⟨-, -, -, -, -, hpower⟩ := State.standing_eq (exec_standing rfl h)
    exact .inl hpower

/-- Settles O18: beside `PWR.ON` and the foreground every word keeps or clears the power enable, and of the
micro-steps AP.0 alone sets it. -/
theorem onlyPowerOnSetsThePowerEnable : Obligations.OnlyPowerOnSetsThePowerEnable := by
  refine ⟨operationEffect_of_simple (fun _ => rfl) fun _ => rfl,
    operationEffect_of_simple (fun _ => rfl) fun _ => rfl, fun i s t h hoff hon => ?_,
    fun s t h hoff hon => ?_⟩
  · by_contra hother
    obtain ⟨hne, hfg⟩ := not_or.1 hother
    have hcleared := exec_pwrEn hne (not_exists.1 hfg) h
    simp [hoff, hon] at hcleared
  · rw [show exec (.fgStep 1) s = foregroundStep s from execFgStep_one s] at h
    obtain hkept | ⟨p, hat, hmicro⟩ := foregroundStep_cases h
    · obtain ⟨-, -, -, -, -, hpower⟩ := State.standing_eq hkept
      simp [hpower, hoff] at hon
    · cases hmicro with
      | moves q _ _ _ _ _ hpower =>
        rw [hpower, hoff] at hon
        exact powerAfter_eq_true p q hon ▸ hat
      | halts _ _ _ _ hpower => simp [hpower, hoff] at hon

/-! The changes of the interlock state (R231). -/

/-- A micro-step that does not halt stays in its state or makes a listed change. -/
theorem successors_state (p : Position) : ∀ q ∈ p.successors, q.state = p.state ∨ (p.state, q.state) ∈
    [((0 : BitVec 3), (1 : BitVec 3)), (1, 2), (2, 3), (3, 4), (3, 5), (4, 5)] := by
  cases p <;> decide

/-- Settles O37. -/
theorem stateChangesAreTheListedOnes : Obligations.StateChangesAreTheListedOnes := by
  intro s t h
  rw [show exec (.fgStep 1) s = foregroundStep s from execFgStep_one s] at h
  obtain hkept | ⟨p, ⟨-, -, -, hp, -⟩, hmicro⟩ := foregroundStep_cases h
  · obtain ⟨-, -, hstate, -⟩ := State.standing_eq hkept
    exact .inl hstate
  · cases hmicro with
    | moves q hq _ _ hstate =>
      rw [hstate, hp]
      exact (successors_state p q hq).imp_right .inl
    | halts _ _ hhalted hstate => exact .inr (.inr ⟨hhalted, hstate⟩)

end Sys2Proof.Machine

/-! PROOF. The output and system operations and the lamp interface (spec/43_interlock.md R212 to R223): what
the sleep tests (R216) and what the halt records (R217), each said once for the operation and for the
sequencer's micro-steps that issue it. -/

namespace Sys2Proof.Machine

variable {s : State}

/-- Settles O19. -/
theorem lampResetAndInterruptEnableAreWritten : Obligations.LampResetAndInterruptEnableAreWritten :=
  ⟨operationEffect_of_simple (fun _ => rfl) fun _ => rfl,
    operationEffect_of_simple (fun _ => rfl) fun _ => rfl,
    operationEffect_of_simple (fun _ => rfl) fun _ => rfl,
    operationEffect_of_simple (fun _ => rfl) fun _ => rfl⟩

/-- Settles O22. -/
theorem kickAndLampInterface : Obligations.KickAndLampInterface :=
  ⟨operationEffect_of_simple (fun _ => rfl) fun _ => rfl,
    operationEffect_of_simple (fun _ => rfl) fun _ => rfl, fun _ _ => rfl⟩

/-! The sleep (R216). -/

/-- Some source is pending and enabled, in the order in which the operation's condition lists them. -/
theorem anyPending_iff (s : State) :
    anyPending s = true ↔ TovPending s ∨ AdcPending s ∨ OcPending s ∨ LpPending s := by
  simp only [anyPending, irqOrder, List.any_cons, List.any_nil, Bool.or_false, Bool.or_eq_true,
    pendingEnabled_overCurrent_iff, pendingEnabled_lowPower_iff, pendingEnabled_conversion_iff,
    pendingEnabled_overflow_iff]
  tauto

theorem sysSleep_of_pending (hgie : s.gie = true)
    (h : TovPending s ∨ AdcPending s ∨ OcPending s ∨ LpPending s) : sysSleep s = .next s :=
  (if_pos hgie).trans (if_pos ((anyPending_iff s).2 h))

theorem sysSleep_of_idle (hgie : s.gie = true)
    (h : ¬(TovPending s ∨ AdcPending s ∨ OcPending s ∨ LpPending s)) :
    sysSleep s = .next { s with sleeping := true } :=
  (if_pos hgie).trans (if_neg ((anyPending_iff s).not.2 h))

theorem sysSleep_of_disabled (hgie : s.gie = false) : sysSleep s = .refused .sleepWithInterruptsOff :=
  if_neg (by simp [hgie])

theorem exec_sysSleep_of_free (h : ForegroundFree s) : exec .sysSleep s = sysSleep s.kick :=
  operation_of_free h _

/-- Settles O20. -/
theorem sleepOnlyWhenNothingIsPending : Obligations.SleepOnlyWhenNothingIsPending := by
  refine fun s => ⟨fun h => ?_, fun h hgie => ?_, fun h hgie hp => ?_, fun h hgie hp => ?_⟩
  · exact exec_refused_of_not_free rfl h
  · exact (exec_sysSleep_of_free h).trans (sysSleep_of_disabled (s := s.kick) hgie)
  · exact (exec_sysSleep_of_free h).trans (sysSleep_of_pending (s := s.kick) hgie hp)
  · exact (exec_sysSleep_of_free h).trans (sysSleep_of_idle (s := s.kick) hgie hp)

/-! The halt (R217). -/

theorem sysHalt_eq (s : State) : sysHalt s = .next { s with
    ilkFc := if s.ilkFc = 0 then 10 else s.ilkFc, ilkState := 5, ilkPhase := 2, ilkHalted := true,
    gie := false, sleeping := false, wdtKick := false, lampPollReq := false } := by
  unfold sysHalt
  split
  next => rfl
  next => rfl

/-- Settles O21. -/
theorem haltRecordsTheConditionAndStopsTheForeground :
    Obligations.HaltRecordsTheConditionAndStopsTheForeground := by
  refine fun s => ⟨fun h => ?_, fun h => ?_⟩
  · exact exec_refused_of_not_free rfl h
  · have hhalt : exec .sysHalt s = sysHalt s.kick := operation_of_free h _
    exact hhalt.trans (sysHalt_eq s.kick)

end Sys2Proof.Machine

/-! PROOF. The micro-step table (spec/43_interlock.md R232), state by state. Under the sequencer
`FG.STEP 1` is the micro-step at its position, on a state that has given its kick; each row of the table is
the effect of the operation it issues, and the test of its `RES`. -/

namespace Sys2Proof.Machine

variable {s t u : State} {p q : Position}

/-! Running a micro-step, and the tests on which it branches. -/

theorem exec_fgStep_of_micro (hat : SequencerAt p s) (h : microStep p s.kick = .next t) :
    exec (.fgStep 1) s = .next t :=
  (execFgStep_one s).trans ((foregroundStep_sequencer hat).trans h)

/-- The answer `RES = 1` of an operation that tests `b` (R105, R240). -/
theorem setRes_boolRes_of_true {b : Bool} (h : b = true) : s.setRes (boolRes b) = s.setRes 1 := by
  rw [h]
  rfl

theorem setRes_boolRes_of_false {b : Bool} (h : b = false) : s.setRes (boolRes b) = s.setRes 0 := by
  rw [h]
  rfl

theorem branch_of_true (h : u.res = 1) : u.branch p q = u.goto p := by
  rw [State.branch, resTrue, h]
  rfl

theorem branch_of_false (h : u.res = 0) : u.branch p q = u.goto q := by
  rw [State.branch, resTrue, h]
  rfl

/-- `ADC.ISUPDATED` with the rounds collected, and the branch on its answer (R166, R240). -/
theorem adcIsupdated_branch_of_le {rounds : BitVec 8} (h : 2 * rounds.toNat ≤ s.src.toNat) :
    (adcIsupdated rounds s).branch p q =
      State.goto { s with src := BitVec.ofNat 32 (s.src.toNat - 2 * rounds.toNat), res := 1 } p := by
  rw [adcIsupdated_eq, if_pos h, if_pos h]
  exact branch_of_true rfl

theorem adcIsupdated_branch_of_lt {rounds : BitVec 8} (h : s.src.toNat < 2 * rounds.toNat) :
    (adcIsupdated rounds s).branch p q = State.goto { s with res := 0 } q := by
  rw [adcIsupdated_eq, if_neg (Nat.not_le.2 h), if_neg (Nat.not_le.2 h)]
  exact branch_of_false rfl

theorem tbRawended_branch_of_elapsed (h : s.rawDur.toNat ≤ windowAge (overflowServiced s)) :
    (tbRawended s).branch p q = State.goto { overflowServiced s with res := 1 } p := by
  rw [tbRawended_eq, if_pos h]
  exact branch_of_true rfl

theorem tbRawended_branch_of_running (h : windowAge (overflowServiced s) < s.rawDur.toNat) :
    (tbRawended s).branch p q = State.goto { overflowServiced s with res := 0 } q := by
  rw [tbRawended_eq, if_neg (Nat.not_le.2 h)]
  exact branch_of_false rfl

/-! `PoweredDown` (R233). -/

theorem stepPoweredDown_of_wdt (hseq : s.seqHold = false) (h : s.rstCauseWdt = true) :
    stepPoweredDown s = s.quiet.halt .watchdogCause := by
  simp [stepPoweredDown, hseq, h]

theorem stepPoweredDown_of_por (hseq : s.seqHold = false) (h : s.rstCauseWdt = false) :
    stepPoweredDown s = s.goto .cb0 := by
  simp [stepPoweredDown, hseq, h]

/-- Settles O28. -/
theorem poweredDownDecidesByTheResetCause : Obligations.PoweredDownDecidesByTheResetCause := by
  intro s hat
  have ⟨_, _, hseq, _⟩ := hat
  refine ⟨fun h => ?_, fun h => ?_⟩
  · exact exec_fgStep_of_micro hat (congrArg _ (stepPoweredDown_of_wdt (s := s.kick) hseq h))
  · exact exec_fgStep_of_micro hat (congrArg _ (stepPoweredDown_of_por (s := s.kick) hseq h))

/-! `CalibratingBias` (R234). -/

theorem stepCheckBeforePower_of_tripped (h : s.ocLevel = true) :
    stepCheckBeforePower s = (s.setRes 1).halt .ocBeforePower := by
  rw [stepCheckBeforePower, ocTripped, setRes_boolRes_of_true h]
  rfl

theorem stepCheckBeforePower_of_clear (h : s.ocLevel = false) :
    stepCheckBeforePower s = (s.setRes 0).goto .ap0 := by
  rw [stepCheckBeforePower, ocTripped, setRes_boolRes_of_false h]
  rfl

/-- Settles O29: one row of the table per clause, two where the row branches. -/
theorem calibratingBiasFollowsTheTable : Obligations.CalibratingBiasFollowsTheTable := by
  refine fun s => ⟨fun hat hd => ?_, fun hat => ?_, fun hat => ?_, fun hat h => ?_, fun hat h => ?_,
    fun hat => ?_, fun hat h => ?_, fun hat h => ?_⟩
  · have hissue : microStep .cb0 s.kick =
        .next ((tbRawwaitIssue s.cfg.ilkPrecalSettleMs s.kick).goto .cb1) :=
      if_pos hd
    rw [tbRawwaitIssue_eq] at hissue
    exact exec_fgStep_of_micro hat hissue
  · exact exec_fgStep_of_micro hat rfl
  · exact exec_fgStep_of_micro hat rfl
  · exact exec_fgStep_of_micro hat (congrArg _ (adcIsupdated_branch_of_le (s := s.kick) h))
  · exact exec_fgStep_of_micro hat (congrArg _ (adcIsupdated_branch_of_lt (s := s.kick) h))
  · exact exec_fgStep_of_micro hat rfl
  · exact exec_fgStep_of_micro hat (congrArg _ (stepCheckBeforePower_of_tripped (s := s.kick) h))
  · exact exec_fgStep_of_micro hat (congrArg _ (stepCheckBeforePower_of_clear (s := s.kick) h))

/-! `ApplyingPower` (R235). -/

theorem stepSettlePoll_of_tripped (h : s.ocLevel = true) :
    stepSettlePoll s = (s.setRes 1).note .ocInSettle .ap5 := by
  rw [stepSettlePoll, ocTripped, setRes_boolRes_of_true h]
  rfl

theorem stepSettlePoll_of_clear (h : s.ocLevel = false) :
    stepSettlePoll s = (s.setRes 0).goto .ap3 := by
  rw [stepSettlePoll, ocTripped, setRes_boolRes_of_false h]
  rfl

/-- The halting micro-step, at AP.7 and at SD.2 (R217, R232). -/
theorem exec_fgStep_of_halt (hat : SequencerAt p s) (hp : microStep p s.kick = sysHalt s.kick) :
    exec (.fgStep 1) s = .next { movedTo 5 2 s with
      ilkFc := if s.ilkFc = 0 then 10 else s.ilkFc, ilkHalted := true, gie := false, sleeping := false,
      wdtKick := false } :=
  exec_fgStep_of_micro hat (hp.trans (sysHalt_eq s.kick))

/-- Settles O30: one row of the table per clause, two where the row branches. -/
theorem applyingPowerFollowsTheTable : Obligations.ApplyingPowerFollowsTheTable := by
  refine fun s => ⟨fun hat => ?_, fun hat hd => ?_, fun hat h => ?_, fun hat h => ?_, fun hat h => ?_,
    fun hat h => ?_, fun hat => ?_, fun hat => ?_, fun hat => ?_, fun hat => ?_⟩
  · exact exec_fgStep_of_micro hat rfl
  · have hstart : microStep .ap1 s.kick = .next ((tbRawstart ilkPowerSettleMs s.kick).goto .ap2) :=
      if_pos hd
    rw [tbRawstart_eq] at hstart
    exact exec_fgStep_of_micro hat hstart
  · exact exec_fgStep_of_micro hat (congrArg _ (stepSettlePoll_of_tripped (s := s.kick) h))
  · exact exec_fgStep_of_micro hat (congrArg _ (stepSettlePoll_of_clear (s := s.kick) h))
  · exact exec_fgStep_of_micro hat (congrArg _ (tbRawended_branch_of_elapsed (s := s.kick) h))
  · exact exec_fgStep_of_micro hat (congrArg _ (tbRawended_branch_of_running (s := s.kick) h))
  · exact exec_fgStep_of_micro hat rfl
  · exact exec_fgStep_of_micro hat rfl
  · exact exec_fgStep_of_micro hat rfl
  · exact exec_fgStep_of_halt hat rfl

/-! `ConfirmingLowPower` (R236). -/

theorem stepLowPowerCheck_of_tripped (h : s.lpLevel = true) :
    stepLowPowerCheck s = (s.setRes 1).note .lowPowerCheck .sd0 := by
  rw [stepLowPowerCheck, lpTripped, setRes_boolRes_of_true h]
  rfl

theorem stepLowPowerCheck_of_clear (h : s.lpLevel = false) :
    stepLowPowerCheck s = (s.setRes 0).goto .cl1 := by
  rw [stepLowPowerCheck, lpTripped, setRes_boolRes_of_false h]
  rfl

/-- Settles O31. -/
theorem confirmingLowPowerIsAOneShotCheck : Obligations.ConfirmingLowPowerIsAOneShotCheck := by
  refine fun s => ⟨fun hat h => ?_, fun hat h => ?_, fun hat => exec_fgStep_of_micro hat rfl⟩
  · exact exec_fgStep_of_micro hat (congrArg _ (stepLowPowerCheck_of_tripped (s := s.kick) h))
  · exact exec_fgStep_of_micro hat (congrArg _ (stepLowPowerCheck_of_clear (s := s.kick) h))

/-! `SteadyState`, entry and loop (R237). -/

theorem stepTickBranch_of_changed (h : resTick (tbTicknum s) ≠ s.ilkLastTick) :
    stepTickBranch s = State.goto { tbTicknum s with ilkLastTick := resTick (tbTicknum s) } .ss11 :=
  if_pos h

theorem stepTickBranch_of_same (h : resTick (tbTicknum s) = s.ilkLastTick) :
    stepTickBranch s = (tbTicknum s).goto .ss4 := if_neg (not_not_intro h)

theorem stepLampPoll_of_changed (h : s.lampChanged = true) :
    stepLampPoll s = State.goto { s.requestPoll.setRes 1 with ilkCadence := ilkCadenceReactive } .ss12 := by
  rw [stepLampPoll, lampPoll, setRes_boolRes_of_true h]
  rfl

theorem stepLampPoll_of_same (h : s.lampChanged = false) :
    stepLampPoll s = (s.requestPoll.setRes 0).goto .ss4 := by
  rw [stepLampPoll, lampPoll, setRes_boolRes_of_false h]
  rfl

/-- The cadence, asked for as a round count, is not truncated. -/
theorem toNat_cadence (k : BitVec 6) : (k.setWidth 8).toNat = k.toNat := by
  have := k.isLt
  rw [BitVec.toNat_setWidth]
  omega

/-- Settles O32: one row of the table per clause, two where the row branches. -/
theorem steadyStateLoopFollowsTheTable : Obligations.SteadyStateLoopFollowsTheTable := by
  refine fun s => ⟨fun hat => ?_, fun hat => ?_, fun hat => ?_, fun hat => ?_, fun hat hgie h => ?_,
    fun hat hgie h => ?_, fun hat h => ?_, fun hat h => ?_, fun hat h => ?_, fun hat h => ?_,
    fun hat h => ?_, fun hat h => ?_, fun hat => ?_⟩
  · exact exec_fgStep_of_micro hat rfl
  · exact exec_fgStep_of_micro hat rfl
  · exact exec_fgStep_of_micro hat rfl
  · exact exec_fgStep_of_micro hat rfl
  · exact exec_fgStep_of_micro hat (sysSleep_of_pending (s := s.kick.goto .ss5) hgie h)
  · exact exec_fgStep_of_micro hat (sysSleep_of_idle (s := s.kick.goto .ss5) hgie h)
  · rw [← toNat_cadence] at h ⊢
    exact exec_fgStep_of_micro hat (congrArg _ (adcIsupdated_branch_of_le (s := s.kick) h))
  · rw [← toNat_cadence] at h
    exact exec_fgStep_of_micro hat (congrArg _ (adcIsupdated_branch_of_lt (s := s.kick) h))
  · exact exec_fgStep_of_micro hat (congrArg _ (stepTickBranch_of_changed (s := s.kick) h))
  · exact exec_fgStep_of_micro hat (congrArg _ (stepTickBranch_of_same (s := s.kick) h))
  · exact exec_fgStep_of_micro hat (congrArg _ (stepLampPoll_of_changed (s := s.kick) h))
  · exact exec_fgStep_of_micro hat (congrArg _ (stepLampPoll_of_same (s := s.kick) h))
  · exact exec_fgStep_of_micro hat rfl

/-! `SteadyState`, the measurement (R225, R226). -/

/-- The low ten bits of a number held in 32. -/
theorem extractLsb'_ofNat (v : Nat) : (BitVec.ofNat 32 v).extractLsb' 0 10 = BitVec.ofNat 10 v := by
  apply BitVec.eq_of_toNat_eq
  simp

theorem stepVerdict_of_charge (hq : s.cfg.ilkQCeil ≤ s.ilkQ.toNat) :
    stepVerdict s = s.note .chargeCeiling .sd0 := by
  simp [stepVerdict, verdict, hq]

theorem stepVerdict_of_current (hq : s.ilkQ.toNat < s.cfg.ilkQCeil) (hi : s.cfg.ilkICeil ≤ s.ilkI.toNat) :
    stepVerdict s = State.note { s with pwrEn := false } .currentCeiling .sd2 := by
  simp [stepVerdict, verdict, Nat.not_le.2 hq, hi]

theorem stepVerdict_of_voltage (hq : s.ilkQ.toNat < s.cfg.ilkQCeil) (hi : s.ilkI.toNat < s.cfg.ilkICeil)
    (hv : s.ilkV.toNat ≤ s.cfg.ilkVFloor) : stepVerdict s = s.note .voltageFloor .sd0 := by
  simp [stepVerdict, verdict, Nat.not_le.2 hq, Nat.not_le.2 hi, hv]

theorem stepVerdict_of_none (hq : s.ilkQ.toNat < s.cfg.ilkQCeil) (hi : s.ilkI.toNat < s.cfg.ilkICeil)
    (hv : s.cfg.ilkVFloor < s.ilkV.toNat) :
    stepVerdict s = State.goto { s with ilkCadence := ilkCadenceSteady } .ss4 := by
  simp [stepVerdict, verdict, Nat.not_le.2 hq, Nat.not_le.2 hi, Nat.not_le.2 hv]

/-- Settles O33: the three reads, and one clause per outcome of the verdict. -/
theorem measurementAppliesTheThreeThresholds : Obligations.MeasurementAppliesTheThreeThresholds := by
  refine fun s => ⟨fun hat => ?_, fun hat v hv => ?_, fun hat v hv => ?_, fun hat hq => ?_,
    fun hat hq hi => ?_, fun hat hq hi hv => ?_, fun hat hq hi hv => ?_⟩
  · exact exec_fgStep_of_micro hat rfl
  · obtain rfl : v = readingValue s.chan0 := hv
    rw [← extractLsb'_ofNat]
    exact exec_fgStep_of_micro hat rfl
  · obtain rfl : v = readingValue s.chan1 := hv
    rw [← extractLsb'_ofNat]
    exact exec_fgStep_of_micro hat rfl
  · exact exec_fgStep_of_micro hat (congrArg _ (stepVerdict_of_charge (s := s.kick) hq))
  · exact exec_fgStep_of_micro hat (congrArg _ (stepVerdict_of_current (s := s.kick) hq hi))
  · exact exec_fgStep_of_micro hat (congrArg _ (stepVerdict_of_voltage (s := s.kick) hq hi hv))
  · exact exec_fgStep_of_micro hat (congrArg _ (stepVerdict_of_none (s := s.kick) hq hi hv))

end Sys2Proof.Machine

/-! PROOF. The composition of foreground steps (spec/43_interlock.md R221): `FG.STEP n` is repetition, and with
the rows of the micro-step table it runs the controlled shutdown (R238) and the threshold scenario that leads
to it (R239 b). -/

namespace Sys2Proof.Machine

variable {s t : State}

/-! The composition (R221). -/

/-- A step result, and what to do from its next state; a stop stays. -/
def andThen (r : StepResult) (f : State → StepResult) : StepResult :=
  match r with
  | .next t => f t
  | .fault e => .fault e
  | .refused e => .refused e

theorem andThen_next (t : State) (f : State → StepResult) : andThen (.next t) f = f t := rfl

theorem andThen_assoc (r : StepResult) (f g : State → StepResult) :
    andThen (andThen r f) g = andThen r fun t => andThen (f t) g := by cases r <;> rfl

theorem foregroundSteps_succ (n : Nat) (s : State) :
    foregroundSteps (n + 1) s = andThen (foregroundStep s) (foregroundSteps n) := by
  rw [foregroundSteps]
  cases foregroundStep s <;> rfl

theorem foregroundSteps_add (m n : Nat) :
    ∀ s, foregroundSteps (m + n) s = andThen (foregroundSteps m s) (foregroundSteps n) := by
  induction m with
  | zero => exact fun s => by rw [Nat.zero_add]; rfl
  | succ m ih =>
    intro s
    calc foregroundSteps (m + 1 + n) s = foregroundSteps (m + n + 1) s := by rw [Nat.add_right_comm]
      _ = andThen (foregroundStep s) (foregroundSteps (m + n)) := foregroundSteps_succ _ s
      _ = andThen (foregroundStep s) fun t => andThen (foregroundSteps m t) (foregroundSteps n) := by
        rw [funext ih]
      _ = andThen (foregroundSteps (m + 1) s) (foregroundSteps n) := by
        rw [foregroundSteps_succ, andThen_assoc]

theorem exec_fgStep {n : BitVec 32} (hn : n ≠ 0) (s : State) :
    exec (.fgStep n) s = foregroundSteps n.toNat s := if_neg (toNat_ne_zero hn)

/-- A foreground that is halted, asleep, or idle under a test master has no step (R221). -/
theorem foregroundStep_refused
    (h : s.ilkHalted = true ∨ s.sleeping = true ∨ (s.wKind = 0 ∧ s.seqHold = true)) :
    ∃ r, foregroundStep s = .refused r := by
  unfold foregroundStep waitNone
  obtain hhalted | hsleeping | ⟨hw, hstrap⟩ := h
  · exact ⟨_, if_pos hhalted⟩
  · rw [if_pos hsleeping]
    split <;> exact ⟨_, rfl⟩
  · rw [if_neg (not_not_intro hw), if_pos hstrap]
    split
    · exact ⟨_, rfl⟩
    · split <;> exact ⟨_, rfl⟩

/-- Settles O36: the repeat counts add, and the first step that is not enabled refuses the word. -/
theorem foregroundStepsCompose : Obligations.ForegroundStepsCompose := by
  refine ⟨fun a b s ha hb hab => ?_, fun _ => rfl, fun n s h => ?_⟩
  · have hsum : (a + b).toNat = a.toNat + b.toNat := by
      rw [BitVec.toNat_add]
      exact Nat.mod_eq_of_lt hab
    have hne : a + b ≠ 0 := fun h0 => by
      have hzero : (a + b).toNat = 0 := congrArg BitVec.toNat h0
      have := toNat_ne_zero ha
      omega
    rw [exec_fgStep hne, hsum, foregroundSteps_add, exec_fgStep ha, funext fun t => (exec_fgStep hb t).symm]
    cases foregroundSteps a.toNat s <;> rfl
  · by_cases hn : n = 0
    · exact ⟨.repeatCountZero, hn ▸ rfl⟩
    · obtain ⟨k, hk⟩ := Nat.exists_eq_succ_of_ne_zero (toNat_ne_zero hn)
      obtain ⟨r, hr⟩ := foregroundStep_refused h
      exact ⟨r, by rw [exec_fgStep hn, hk, foregroundSteps_succ, hr]; rfl⟩

/-- The first of several steps, by what `FG.STEP 1` does. -/
theorem foregroundSteps_of_next (h : exec (.fgStep 1) s = .next t) (n : Nat) :
    foregroundSteps (n + 1) s = foregroundSteps n t := by
  rw [foregroundSteps_succ, ← execFgStep_one, show execFgStep 1 s = .next t from h, andThen_next]

/-! The controlled shutdown (R238) and the threshold scenario (R239 b). -/

theorem exec_fgStep_sd0 (hat : SequencerAt .sd0 s) :
    exec (.fgStep 1) s = .next { movedTo 5 1 s with lampRst := true } := exec_fgStep_of_micro hat rfl

theorem exec_fgStep_sd1 (hat : SequencerAt .sd1 s) :
    exec (.fgStep 1) s = .next { movedTo 5 2 s with pwrEn := false } := exec_fgStep_of_micro hat rfl

/-- The three steps from SD.0: each leaves the sequencer at the next position. -/
theorem foregroundSteps_shutdown (hat : SequencerAt .sd0 s) :
    foregroundSteps 3 s = .next { movedTo 5 2 s with
      lampRst := true, pwrEn := false, ilkFc := if s.ilkFc = 0 then 10 else s.ilkFc, ilkHalted := true,
      gie := false, sleeping := false, wdtKick := false } := by
  have ⟨hawake, hw, hseq, _⟩ := hat
  have hat1 : SequencerAt .sd1 { movedTo 5 1 s with lampRst := true } := ⟨hawake, hw, hseq, rfl, rfl⟩
  have hat2 : SequencerAt .sd2 { movedTo 5 2 s with lampRst := true, pwrEn := false } :=
    ⟨hawake, hw, hseq, rfl, rfl⟩
  rw [foregroundSteps_of_next (exec_fgStep_sd0 hat), foregroundSteps_of_next (exec_fgStep_sd1 hat1),
    foregroundSteps_of_next (exec_fgStep_of_halt hat2 rfl)]
  rfl

/-- Settles O34. -/
theorem controlledShutdownHoldsLampRemovesPowerHalts :
    Obligations.ControlledShutdownHoldsLampRemovesPowerHalts :=
  fun _ => ⟨exec_fgStep_sd0, exec_fgStep_sd1, fun hat => exec_fgStep_of_halt hat rfl,
    foregroundSteps_shutdown⟩

/-- SS.6 copies a charge that has its width whole, and moves on to SS.7. -/
theorem exec_fgStep_ss6 (hat : SequencerAt .ss6 s) (hwidth : s.chan0.acc.toNat < 2 ^ s.cfg.accW) :
    ∃ u, exec (.fgStep 1) s = .next u ∧ SequencerAt .ss7 u ∧ u.ilkQ = s.chan0.acc ∧ u.cfg = s.cfg := by
  have ⟨hawake, hw, hseq, _⟩ := hat
  have hcharge : BitVec.ofNat 32 (s.chan0.acc.toNat % 2 ^ s.cfg.accW) = s.chan0.acc := by
    rw [Nat.mod_eq_of_lt hwidth, BitVec.ofNat_toNat, BitVec.setWidth_eq]
  exact ⟨_, exec_fgStep_of_micro hat rfl, ⟨hawake, hw, hseq, rfl, rfl⟩, hcharge, rfl⟩

/-- The reads of SS.7 and SS.8 leave the charge read before. -/
theorem exec_fgStep_ss7 (hat : SequencerAt .ss7 s) :
    ∃ u, exec (.fgStep 1) s = .next u ∧ SequencerAt .ss8 u ∧ u.ilkQ = s.ilkQ ∧ u.cfg = s.cfg := by
  have ⟨hawake, hw, hseq, _⟩ := hat
  exact ⟨_, exec_fgStep_of_micro hat rfl, ⟨hawake, hw, hseq, rfl, rfl⟩, rfl, rfl⟩

theorem exec_fgStep_ss8 (hat : SequencerAt .ss8 s) :
    ∃ u, exec (.fgStep 1) s = .next u ∧ SequencerAt .ss9 u ∧ u.ilkQ = s.ilkQ ∧ u.cfg = s.cfg := by
  have ⟨hawake, hw, hseq, _⟩ := hat
  exact ⟨_, exec_fgStep_of_micro hat rfl, ⟨hawake, hw, hseq, rfl, rfl⟩, rfl, rfl⟩

/-- The charge verdict at SS.9 begins the controlled shutdown, four steps in all. -/
theorem foregroundSteps_of_charge (hat : SequencerAt .ss9 s) (hq : s.cfg.ilkQCeil ≤ s.ilkQ.toNat) :
    foregroundSteps 4 s = .next { movedTo 5 2 s with
      lampRst := true, pwrEn := false, ilkFc := 5, ilkHalted := true, gie := false, sleeping := false,
      wdtKick := false } := by
  have ⟨hawake, hw, hseq, _⟩ := hat
  have hverdict : exec (.fgStep 1) s = .next { movedTo 5 0 s with ilkFc := 5 } :=
    exec_fgStep_of_micro hat (congrArg _ (stepVerdict_of_charge (s := s.kick) hq))
  have hat0 : SequencerAt .sd0 { movedTo 5 0 s with ilkFc := 5 } := ⟨hawake, hw, hseq, rfl, rfl⟩
  rw [foregroundSteps_of_next hverdict, foregroundSteps_shutdown hat0]
  rfl

/-- Settles O35: three reads, the verdict on the charge just read, and the controlled shutdown. -/
theorem chargeAtTheCeilingShutsDown : Obligations.ChargeAtTheCeilingShutsDown := by
  intro s hat hwidth hceil
  obtain ⟨u, hu, hat7, hcharge, hcfg⟩ := exec_fgStep_ss6 hat hwidth
  obtain ⟨v, hv, hat8, hcharge', hcfg'⟩ := exec_fgStep_ss7 hat7
  obtain ⟨w, hw, hat9, hcharge'', hcfg''⟩ := exec_fgStep_ss8 hat8
  have hread : w.ilkQ = s.chan0.acc := hcharge''.trans (hcharge'.trans hcharge)
  have hq : w.cfg.ilkQCeil ≤ w.ilkQ.toNat := by rwa [hread, hcfg'', hcfg', hcfg]
  have hreads : exec (.fgStep 7) s = foregroundSteps 4 w :=
    calc exec (.fgStep 7) s = foregroundSteps 6 u := foregroundSteps_of_next hu 6
      _ = foregroundSteps 5 v := foregroundSteps_of_next hv 5
      _ = foregroundSteps 4 w := foregroundSteps_of_next hw 4
  exact ⟨_, hreads.trans (foregroundSteps_of_charge hat9 hq), rfl, rfl, rfl, rfl, rfl, rfl, rfl, hread⟩

end Sys2Proof.Machine

/-! PROOF. The four interrupt words (spec/60_exceptions.md R262, R265, R266, R268, R269). `IrqSource.word` and
`IrqSource.handler` name the word and the body of each source, so that the rules of taking an interrupt are
stated once for all four: a word is refused exactly when its source is not takeable, no two sources are
takeable together, and one is when any is pending and enabled. -/

namespace Sys2Proof.Machine

variable {s : State}

/-! The words of the sources. -/

/-- The interrupt word of a source (R104). -/
def IrqSource.word : IrqSource → Instr
  | .overCurrent => .irqOc
  | .lowPower => .irqLp
  | .conversion => .irqAdc
  | .overflow => .irqTov

/-- The handler's body of a source (R131, R161, R268, R269). -/
def IrqSource.handler : IrqSource → State → StepResult
  | .overCurrent => handleOc
  | .lowPower => handleLp
  | .conversion => handleAdc
  | .overflow => handleTov

theorem IrqSource.exec_word (x : IrqSource) (s : State) : exec x.word s = takeInterrupt x s x.handler := by
  cases x <;> rfl

theorem IrqSource.word_mem (x : IrqSource) : x.word ∈ [Instr.irqOc, .irqLp, .irqAdc, .irqTov] := by
  cases x <;> simp [word]

theorem IrqSource.exists_word_of_mem {i : Instr} (h : i ∈ [Instr.irqOc, .irqLp, .irqAdc, .irqTov]) :
    ∃ x : IrqSource, i = x.word := by
  simp only [List.mem_cons, List.not_mem_nil, or_false] at h
  obtain rfl | rfl | rfl | rfl := h
  exacts [⟨.overCurrent, rfl⟩, ⟨.lowPower, rfl⟩, ⟨.conversion, rfl⟩, ⟨.overflow, rfl⟩]

/-- The conversion handler may fault (R261), but no body refuses. -/
theorem IrqSource.handler_ne_refused (x : IrqSource) (s : State) (r : Refusal) :
    x.handler s ≠ .refused r := by
  cases x with
  | overCurrent | lowPower | overflow => exact nofun
  | conversion =>
    show handleAdc s ≠ .refused r
    cases hacc : handlerAcc s with
    | error f =>
      rw [handleAdc_of_acc_error hacc]
      exact nofun
    | ok acc =>
      cases hsrc : srcCounted s.cfg s.src.toNat with
      | error f =>
        rw [handleAdc_of_src_error hacc hsrc]
        exact nofun
      | ok n =>
        rw [handleAdc_of_ok hacc hsrc]
        exact nofun

theorem IrqSource.word_enabled_iff (x : IrqSource) (s : State) :
    (∀ r, exec x.word s ≠ .refused r) ↔ takeable x s = true := by
  rw [exec_word]
  by_cases htake : takeable x s = true
  · simp [takeInterrupt_of_takeable htake, htake, handler_ne_refused]
  · simp [takeInterrupt_of_not_takeable htake, htake]

/-! The priority (R265). -/

/-- `IRQ_ORDER` is total: of two sources one has the higher priority. -/
theorem eq_or_mem_higherThan (x y : IrqSource) : x = y ∨ x ∈ higherThan y ∨ y ∈ higherThan x := by
  cases x <;> cases y <;> decide

theorem takeable_unique {x y : IrqSource} (hx : takeable x s = true) (hy : takeable y s = true) : x = y := by
  obtain ⟨-, hpx, hhigherx⟩ := (takeable_iff x s).1 hx
  obtain ⟨-, hpy, hhighery⟩ := (takeable_iff y s).1 hy
  obtain heq | hmem | hmem := eq_or_mem_higherThan x y
  · exact heq
  · exact absurd hpx (hhighery x hmem)
  · exact absurd hpy (hhigherx y hmem)

/-- No source comes before `IRQ.OC` (R265). -/
theorem takeable_overCurrent_iff (s : State) :
    takeable .overCurrent s = true ↔ Interruptible s ∧ OcPending s := by
  have hhigher : higherThan .overCurrent = [] := rfl
  rw [takeable_iff, hhigher]
  simp only [List.not_mem_nil, false_implies, implies_true, and_true, pendingEnabled_overCurrent_iff]

/-- Only the over-current source comes before `IRQ.LP` (R265). -/
theorem takeable_lowPower_iff (s : State) :
    takeable .lowPower s = true ↔ Interruptible s ∧ LpPending s ∧ ¬OcPending s := by
  have hhigher : higherThan .lowPower = [.overCurrent] := rfl
  rw [takeable_iff, hhigher]
  simp only [List.forall_mem_cons, List.not_mem_nil, false_implies, implies_true, and_true,
    pendingEnabled_overCurrent_iff, pendingEnabled_lowPower_iff]

/-- The first source in `IRQ_ORDER` that is pending and enabled is takeable. -/
theorem exists_takeable (hint : Interruptible s)
    (h : TovPending s ∨ AdcPending s ∨ OcPending s ∨ LpPending s) : ∃ x, takeable x s = true := by
  by_cases hoc : OcPending s
  · exact ⟨_, (takeable_overCurrent_iff s).2 ⟨hint, hoc⟩⟩
  by_cases hlp : LpPending s
  · exact ⟨_, (takeable_lowPower_iff s).2 ⟨hint, hlp, hoc⟩⟩
  by_cases hadc : AdcPending s
  · exact ⟨_, (takeable_conversion_iff s).2 ⟨hint, hadc, hoc, hlp⟩⟩
  have htov : TovPending s := by tauto
  exact ⟨_, (takeable_overflow_iff s).2 ⟨hint, htov, hoc, hlp, hadc⟩⟩

/-- Settles O24: a word that is not refused names a takeable source, and of these there is at most one. -/
theorem exactlyOneInterruptIsTakeable : Obligations.ExactlyOneInterruptIsTakeable := by
  refine ⟨fun i j s hi hj hni hnj => ?_, fun s hint hpending => ?_⟩
  · obtain ⟨x, rfl⟩ := IrqSource.exists_word_of_mem hi
    obtain ⟨y, rfl⟩ := IrqSource.exists_word_of_mem hj
    rw [takeable_unique ((x.word_enabled_iff s).1 hni) ((y.word_enabled_iff s).1 hnj)]
  · obtain ⟨x, hx⟩ := exists_takeable hint hpending
    exact ⟨x.word, x.word_mem, (x.word_enabled_iff s).2 hx⟩

/-! The escape hatches (R268, R269). -/

theorem exec_irqOc_refused (h : ¬(Interruptible s ∧ OcPending s)) :
    exec .irqOc s = .refused .interruptNotTakeable :=
  takeInterrupt_of_not_takeable ((takeable_overCurrent_iff s).not.2 h)

theorem exec_irqLp_refused (h : ¬(Interruptible s ∧ LpPending s ∧ ¬OcPending s)) :
    exec .irqLp s = .refused .interruptNotTakeable :=
  takeInterrupt_of_not_takeable ((takeable_lowPower_iff s).not.2 h)

/-- Settles O23: below CL.0 the arming order leaves the over-current source disabled, below `SteadyState`
the low-power source. -/
theorem escapeHatchesCutPowerAndHalt : Obligations.EscapeHatchesCutPowerAndHalt := by
  refine fun s => ⟨fun hint hoc => ?_, exec_irqOc_refused, fun hint hlp hoc => ?_, exec_irqLp_refused,
    fun harm hseq hstate => ?_, fun harm hseq hstate => ?_⟩
  · exact takeInterrupt_of_takeable ((takeable_overCurrent_iff s).2 ⟨hint, hoc⟩)
  · exact takeInterrupt_of_takeable ((takeable_lowPower_iff s).2 ⟨hint, hlp, hoc⟩)
  · obtain ⟨hocArmed, -⟩ := harm hseq
    exact exec_irqOc_refused fun ⟨_, _, hie⟩ => absurd (hocArmed hie) (Nat.not_le.2 hstate)
  · obtain ⟨-, hlpArmed, -⟩ := harm hseq
    exact exec_irqLp_refused fun ⟨_, ⟨_, hie⟩, _⟩ => absurd (hlpArmed hie) (Nat.not_le.2 hstate)

end Sys2Proof.Machine

/-! PROOF. The global interrupt enable under the operations (spec/60_exceptions.md R264), the terminal halt
(R272) and the watchdog reset that leaves it (R276, R233, R300). -/

namespace Sys2Proof.Machine

variable {s t : State}

/-! The effects that branch, and the writes to a channel, keep the interrupt enable. -/

theorem serviceOverflow_gie (s : State) : s.serviceOverflow.gie = s.gie := by
  unfold State.serviceOverflow
  split <;> rfl

theorem mswaitIssue_gie (d : Nat) (s : State) : (mswaitIssue d s).gie = s.gie := by
  simp only [mswaitIssue]
  split
  · rfl
  · split <;> rfl

theorem adcIsupdated_gie (rounds : BitVec 8) (s : State) : (adcIsupdated rounds s).gie = s.gie := by
  unfold adcIsupdated
  split <;> rfl

/-! The operations (R264). -/

theorem operation_gie {f : State → StepResult} (h : operation s f = .next t)
    (hf : ∀ u, f u = .next t → t.gie = u.gie) : t.gie = s.gie := by
  obtain ⟨-, h⟩ := operation_next h
  exact hf s.kick h

theorem simpleOperation_gie {f : State → State} (h : simpleOperation s f = .next t)
    (hf : ∀ u, (f u).gie = u.gie) : t.gie = s.gie := by
  obtain ⟨-, rfl⟩ := simpleOperation_next h
  exact hf s.kick

theorem durationOperation_gie {d : BitVec 32} {f : State → State}
    (h : operation s (fun u => withDuration d u f) = .next t)
    (hf : ∀ u, (f u).gie = u.gie) : t.gie = s.gie :=
  operation_gie h fun u h => by
    obtain ⟨-, rfl⟩ := withDuration_next h
    exact hf u

theorem sysSleep_gie (h : sysSleep s = .next t) : t.gie = s.gie := by
  obtain ⟨-, ⟨-, rfl⟩ | ⟨-, rfl⟩⟩ := sysSleep_next h <;> rfl

/-- Settles O40. -/
theorem operationsLeaveTheInterruptEnable : Obligations.OperationsLeaveTheInterruptEnable := by
  intro i s t hop hen hdis hhalt h
  cases i with
  | evCount _ | evAdcdone _ | evOc _ | evLp _ | evLamp _ | evWdtexp _ _ _ _ | evPor _ _ _ _
  | irqOc | irqLp | irqAdc | irqTov | fgStep _ => cases hop
  | sysIrqen => exact absurd rfl hen
  | sysIrqdis => exact absurd rfl hdis
  | sysHalt => exact absurd rfl hhalt
  | tbMswait d => exact durationOperation_gie h (mswaitIssue_gie _)
  | tbRawstart d => exact durationOperation_gie h serviceOverflow_gie
  | tbRawwait d => exact durationOperation_gie h serviceOverflow_gie
  | tbRawended => exact simpleOperation_gie h serviceOverflow_gie
  | adcIsupdated rounds => exact simpleOperation_gie h (adcIsupdated_gie rounds)
  | adcCalbias ch => exact simpleOperation_gie h fun u => u.setChan_gie ch _
  | sysSleep => exact operation_gie h fun _ h => sysSleep_gie h
  | tbStart | tbStop | tbNow | tbTicknum | tbTickwait | adcStart | adcStop | adcReading _ | adcAcccharge
  | ocTripped | ocPending | ocClear | ocArm | lpTripped | lpPending | lpClear | lpArm | pwrOn | pwrOff
  | lrstAssert | lrstRelease | wdtKick | lampPoll =>
    exact simpleOperation_gie h fun _ => rfl

/-! The terminal halt (R272). -/

/-- What a step that is no reset keeps of a halted block, beside the halt itself (R272). -/
abbrev TerminalFrame (s t : State) : Prop :=
  t.gie = s.gie ∧ t.sleeping = s.sleeping ∧ t.ilkState = s.ilkState ∧ t.ilkPhase = s.ilkPhase ∧
  t.ilkFc = s.ilkFc ∧ t.pwrEn = s.pwrEn ∧ t.lampRst = s.lampRst ∧ t.tbOvf = s.tbOvf ∧ t.res = s.res

theorem TerminalFrame.refl (s : State) : TerminalFrame s s := ⟨rfl, rfl, rfl, rfl, rfl, rfl, rfl, rfl, rfl⟩

theorem foregroundFree_of_operation_next {i : Instr} (hi : isOperation i = true) (h : exec i s = .next t) :
    ForegroundFree s := by
  by_contra hfree
  obtain ⟨r, hr⟩ := exec_refused_of_not_free hi hfree
  rw [hr] at h
  cases h

theorem takeInterrupt_running {x : IrqSource} {body : State → StepResult}
    (h : takeInterrupt x s body = .next t) : s.ilkHalted = false := by
  obtain ⟨htake, -⟩ := takeInterrupt_next h
  obtain ⟨-, hrunning, -⟩ := takeable_next htake
  exact hrunning

theorem exec_fgStep_running {n : BitVec 32} (h : exec (.fgStep n) s = .next t) : s.ilkHalted = false := by
  obtain ⟨-, -, hrefused⟩ := foregroundStepsCompose
  by_contra hhalt
  obtain ⟨r, hr⟩ := hrefused n s (.inl (by simpa using hhalt))
  rw [hr] at h
  cases h

/-- Settles O39: the operations, the interrupt words and `FG.STEP` have a step in a running block only, and
the converter none while a halted block's flag is set. -/
theorem haltIsTerminal : Obligations.HaltIsTerminal := by
  intro i s t hhalt h
  have hnot : s.ilkHalted ≠ false := by simp [hhalt]
  cases i with
  | evWdtexp _ _ _ _ | evPor _ _ _ _ => exact .inl rfl
  | evCount n =>
    obtain ⟨-, rfl⟩ := execEvCount_next h
    exact .inr ⟨.inl ⟨n, rfl⟩, hhalt, TerminalFrame.refl s⟩
  | evAdcdone x =>
    obtain ⟨hready, -, rfl⟩ := execEvAdcdone_next h
    obtain ⟨-, hrunning | hclear⟩ := (converterReady_iff s).1 hready
    · exact absurd hrunning hnot
    · exact .inr ⟨.inr (.inl ⟨x, rfl, hclear⟩), hhalt, TerminalFrame.refl s⟩
  | evOc l =>
    injection h with h
    subst h
    exact .inr ⟨.inr (.inr (.inl ⟨l, rfl⟩)), hhalt, TerminalFrame.refl s⟩
  | evLp l =>
    injection h with h
    subst h
    exact .inr ⟨.inr (.inr (.inr (.inl ⟨l, rfl⟩))), hhalt, TerminalFrame.refl s⟩
  | evLamp l =>
    injection h with h
    subst h
    exact .inr ⟨.inr (.inr (.inr (.inr ⟨l, rfl⟩))), hhalt, TerminalFrame.refl s⟩
  | irqOc | irqLp | irqAdc | irqTov => exact absurd (takeInterrupt_running h) hnot
  | fgStep n => exact absurd (exec_fgStep_running h) hnot
  | _ =>
    obtain ⟨-, hrunning, -⟩ := foregroundFree_of_operation_next rfl h
    exact absurd hrunning hnot

/-! The watchdog cycle (R276, R233). -/

theorem exec_evWdtexp_of_halted (hold oc lp : Bool) (cnt : BitVec 16) (h : s.ilkHalted = true) :
    exec (.evWdtexp hold oc lp cnt) s = .next (s.resetTo true hold oc lp cnt) := if_pos h

/-- A reset with the strap at 0 leaves the sequencer at PD.0 (R54, R300). -/
theorem sequencerAt_resetTo (s : State) (wdt oc lp : Bool) (cnt : BitVec 16) :
    SequencerAt .pd0 (s.resetTo wdt false oc lp cnt) := ⟨⟨rfl, rfl⟩, rfl, rfl, rfl, rfl⟩

/-- Settles O27: the reset records its cause, and PD.0 halts on it with the outputs at their reset values. -/
theorem watchdogResetHaltsAgainWithPowerOff : Obligations.WatchdogResetHaltsAgainWithPowerOff := by
  intro oc lp cnt s hhalt
  have hreset := exec_evWdtexp_of_halted false oc lp cnt hhalt
  obtain ⟨hcause, -⟩ := poweredDownDecidesByTheResetCause _ (sequencerAt_resetTo s true oc lp cnt)
  exact ⟨_, (execAll_cons_of_next hreset).trans (execAll_cons_of_next (hcause rfl)),
    rfl, rfl, rfl, rfl, rfl, rfl, rfl, rfl, rfl, rfl⟩

end Sys2Proof.Machine

/-! PROOF. The reset events against the reset table (spec/70_reset_and_hazards.md R300; R54). -/

namespace Sys2Proof.Machine

variable {s : State}

theorem exec_evPor (hold oc lp : Bool) (cnt : BitVec 16) (s : State) :
    exec (.evPor hold oc lp cnt) s = .next (s.resetTo false hold oc lp cnt) := rfl

theorem exec_evWdtexp_of_running (hold oc lp : Bool) (cnt : BitVec 16) (h : s.ilkHalted = false) :
    exec (.evWdtexp hold oc lp cnt) s = .refused .watchdogFed :=
  if_neg (Bool.eq_false_iff.1 h)

/-- The two resets differ in the cause they record and in nothing else (R300). -/
theorem resetTo_watchdog (s : State) (hold oc lp : Bool) (cnt : BitVec 16) :
    s.resetTo true hold oc lp cnt = { s.resetTo false hold oc lp cnt with rstCauseWdt := true } := rfl

/-- Settles O25: the table is `State.reset` with the draws of the word, which is what the power-on reset
answers; the watchdog reset is that state with the other cause, in a halted block only. -/
theorem resetEventsGiveTheResetTable : Obligations.ResetEventsGiveTheResetTable := by
  intro hold oc lp cnt s por hpor
  have htable : por = s.resetTo false hold oc lp cnt := hpor
  rw [htable, ← resetTo_watchdog]
  exact ⟨exec_evPor hold oc lp cnt s, exec_evWdtexp_of_halted hold oc lp cnt,
    exec_evWdtexp_of_running hold oc lp cnt⟩

end Sys2Proof.Machine
